-- ==== Sys2Proof/Word.lean ====
section
/-! DEFINITION. The words of the block: bytes, byte sequences and 10-bit command words (R9, R12, R70). -/

namespace Sys2Proof

/-- A byte: 8 bits, unsigned (R9). -/
abbrev Byte := BitVec 8

/-- A finite byte sequence, index 0 first (R12). -/
abbrev Bytes := List Byte

/-- A command word `w[9:0]` of the command port (R70). -/
abbrev CmdWord := BitVec 10

end Sys2Proof
end

