-- ==== Sys2Proof/Config.lean ====
section
/-! DEFINITION. What a configuration of the block is made of (the CRC parameter record, the frame
variant) and the free values, which the spec leaves unspecified (U6, U7, U8). The values of the two
parameter sets and of the markers are constants of Machine/Crc.lean and Machine/Frame.lean (R7). -/

namespace Sys2Proof

/-- A CRC parameter set: the record of six fields of R100. -/
structure CrcParams where
  /-- number of register bits -/
  width : Nat
  /-- generator polynomial without its top term -/
  poly : BitVec width
  /-- initial register value, the document's "xor-in" -/
  init : BitVec width
  /-- input reflection -/
  refin : Bool
  /-- output reflection -/
  refout : Bool
  /-- final xor-out -/
  xorout : BitVec width
  deriving DecidableEq, Repr

/-- The two frame variants (R2, R146). -/
inductive Variant
  | a
  | b
  deriving DecidableEq, Repr

namespace Config

/-- FREE VALUE: what `crc` holds after the `n`-th reset event (R230, U6; log 3). -/
opaque freeCrc : Nat → BitVec 32

/-- FREE VALUE: what `result` holds after the `n`-th reset event (R230, U7; log 3). -/
opaque freeResult : Nat → BitVec 32

/-- FREE VALUE: what cell `i` of the payload buffer holds after the `n`-th reset event, as long as
nothing has written it since (R29, R230, U8; log 2). -/
opaque freeBufByte : (n i : Nat) → Byte

end Config

end Sys2Proof
end

