-- ==== Sys2Proof/Syntax.lean ====
section
/-! DEFINITION. The six instructions (one constructor per row of spec/opcode_table.json), the reserved
classes, the events the host presents, and the spec's macro-operations. -/

namespace Sys2Proof

/-- The instructions of R70 and R75. -/
inductive Instr
  /-- `START.CRC16` (R120) -/
  | startCrc16
  /-- `START.CRC32` (R121) -/
  | startCrc32
  /-- `START.FRAMEA` (R155) -/
  | startFrameA
  /-- `START.FRAMEB` (R156) -/
  | startFrameB
  /-- `DATA d` (R170); all 256 bytes are legal (R73) -/
  | data (d : Byte)
  /-- `END` (R171) -/
  | endOp
  deriving DecidableEq, Repr

/-- Why a word selects no instruction: the three rows of R77. -/
inductive Reserved
  /-- START with `arg[7:2]` not zero: words 0x004 to 0x0FF -/
  | startArg
  /-- END with `arg` not zero: words 0x201 to 0x2FF -/
  | endArg
  /-- `kind` = 3: words 0x300 to 0x3FF -/
  | kindThree
  deriving DecidableEq, Repr

/-- What a command word stands for: an instruction, or reserved (R78: decoding is total). -/
inductive Decoded
  | instr (i : Instr)
  | reserved (r : Reserved)
  deriving DecidableEq, Repr

/-- What the host presents, one at a time: a command word or the reset event, which is not a command
word (R16, R72, R230). -/
inductive Event
  | word (w : CmdWord)
  | reset
  deriving DecidableEq, Repr

/-- A line of the assembler syntax: an instruction, or `RESET` (R80). -/
inductive Line
  | instr (i : Instr)
  | reset
  deriving DecidableEq, Repr

/-- The four macro-operations (R81 to R84). -/
inductive Macro
  | crc16 (d : Bytes)
  | crc32 (d : Bytes)
  | frameA (p : Bytes)
  | frameB (p : Bytes)
  deriving DecidableEq, Repr

end Sys2Proof
end

