-- ==== Sys2Proof/WellFormed.lean ====
section
/-! DEFINITION. Well-formedness. Every instruction term is well formed, because its only operand is a
byte and all 256 bytes are legal (R73). What the spec constrains is the ORDER in which a host presents
instructions: whole operations, one after the other (R16, R236, R237). -/

namespace Sys2Proof

/-- Well-formedness of one instruction: no operand value is excluded (R73). -/
def Instr.wf : Instr → Bool
  | .startCrc16 | .startCrc32 | .startFrameA | .startFrameB => true
  | .data _ => true
  | .endOp => true

/-- The START of an operation (R16). -/
def Instr.isStart : Instr → Bool
  | .startCrc16 | .startCrc32 | .startFrameA | .startFrameB => true
  | .data _ | .endOp => false

/-- `wellPhrasedFrom busy is`: presented to a block that is busy or idle, the instructions `is` never
breach the protocol (R236: no START while busy, no DATA or END while idle) and leave no operation
open (R237). -/
def wellPhrasedFrom : Bool → List Instr → Bool
  | busy, [] => !busy
  | busy, i :: is =>
    match i with
    | .startCrc16 | .startCrc32 | .startFrameA | .startFrameB => !busy && wellPhrasedFrom true is
    | .data _ => busy && wellPhrasedFrom true is
    | .endOp => busy && wellPhrasedFrom false is

/-- A sequence of whole operations, each one START, any number of DATA and one END (R16). -/
def wellPhrased (is : List Instr) : Bool := wellPhrasedFrom false is

end Sys2Proof
end

