-- ==== Sys2Proof/Decode.lean ====
section
/-! DEFINITION. The decoder of command words, total on all 1024 of them and rejecting by name (R70, R75,
R77, R78); the encoder; the opcode map as a table (R75); the assembler and its macros (R80 to R84). -/

namespace Sys2Proof

/-- `kind = w[9:8]` (R70). -/
def kindOf (w : CmdWord) : BitVec 2 := w.extractLsb' 8 2

/-- `arg = w[7:0]` (R70). -/
def argOf (w : CmdWord) : Byte := w.extractLsb' 0 8

/-- The word with these two fields: `w = kind * 256 + arg` (R70). -/
def cmdWord (kind : BitVec 2) (arg : Byte) : CmdWord := kind ++ arg

/-- What a START word with this `arg` selects: the operation code is `arg[1:0]`, and `arg[7:2]` must be
zero (R70, R73, R75). -/
def decodeStart (arg : Byte) : Decoded :=
  if arg.extractLsb' 2 6 = 0 then
    if arg.extractLsb' 0 2 = 0#2 then .instr .startCrc16
    else if arg.extractLsb' 0 2 = 1#2 then .instr .startCrc32
    else if arg.extractLsb' 0 2 = 2#2 then .instr .startFrameA
    else .instr .startFrameB
  else .reserved .startArg

/-- The instruction a command word selects, or why it is reserved (R75, R77, R78). -/
def decode (w : CmdWord) : Decoded :=
  if kindOf w = 0 then decodeStart (argOf w)
  else if kindOf w = 1 then .instr (.data (argOf w))
  else if kindOf w = 2 then
    if argOf w = 0 then .instr .endOp else .reserved .endArg
  else .reserved .kindThree

/-- The word of an instruction (R75). -/
def encode : Instr → CmdWord
  | .startCrc16 => cmdWord 0 0x00
  | .startCrc32 => cmdWord 0 0x01
  | .startFrameA => cmdWord 0 0x02
  | .startFrameB => cmdWord 0 0x03
  | .data d => cmdWord 1 d
  | .endOp => cmdWord 2 0x00

/-- An instruction's mnemonic, as the spec writes it (R75, R80). -/
def Instr.mnemonic : Instr → String
  | .startCrc16 => "START.CRC16"
  | .startCrc32 => "START.CRC32"
  | .startFrameA => "START.FRAMEA"
  | .startFrameB => "START.FRAMEB"
  | .data _ => "DATA"
  | .endOp => "END"

/-- The opcode map of R75, one row `(mnemonic, match, mask)` per instruction. -/
def opcodeMap : List (String × CmdWord × CmdWord) :=
  [("START.CRC16", 0x000, 0x3FF), ("START.CRC32", 0x001, 0x3FF), ("START.FRAMEA", 0x002, 0x3FF),
   ("START.FRAMEB", 0x003, 0x3FF), ("DATA", 0x100, 0x300), ("END", 0x200, 0x3FF)]

/-- The mnemonics of the rows that a word selects: `(w AND mask) = match` (R75). -/
def selectedRows (w : CmdWord) : List String :=
  (opcodeMap.filter (fun r => w &&& r.2.2 = r.2.1)).map (·.1)

/-- The command word whose bits are the low `nbits` of `w`; none where a bit above bit 9 is set, since the
port has ten bits (R70; log 10). -/
def portWord (nbits w : Nat) : Option CmdWord :=
  if w % 2 ^ nbits < 1024 then some (BitVec.ofNat 10 (w % 2 ^ nbits)) else none

/-- The instruction the decoder reads from an instruction whose bits are `w`. -/
def decodeTableWord (nbits w : Nat) : Option Instr :=
  match portWord nbits w with
  | none => none
  | some x =>
    match decode x with
    | .instr i => some i
    | .reserved _ => none

/-- What the host presents for an assembler line (R80). -/
def Line.event : Line → Event
  | .instr i => .word (encode i)
  | .reset => .reset

/-- One operation: a START, one DATA per byte in sequence order, END (R16, R71). -/
def operation (start : Instr) (d : Bytes) : List Instr := start :: (d.map .data ++ [.endOp])

/-- The expansion of a macro-operation (R81 to R84). -/
def Macro.expand : Macro → List Instr
  | .crc16 d => operation .startCrc16 d
  | .crc32 d => operation .startCrc32 d
  | .frameA p => operation .startFrameA p
  | .frameB p => operation .startFrameB p

/-- The events by which the host presents a list of instructions. -/
def wordsOf (is : List Instr) : List Event := is.map (fun i => .word (encode i))

end Sys2Proof
end

