-- ==== Sys2Proof/Machine/State.lean ====
section
/-! DEFINITION. The state of one `FrameCodec` block as plain data, the reasons a step can stop, and the
state after reset (R20 to R30, R41). -/

namespace Sys2Proof.Machine

/-- What the block is doing (R21). Codes 5 to 7 do not exist (U4). -/
inductive Phase
  /-- `IDLE`, code 0 -/
  | idle
  /-- `CRC_RUN`, code 1 -/
  | crcRun
  /-- `FRAME_RUN`, code 2 -/
  | frameRun
  /-- `FRAME_OVF`, code 3 -/
  | frameOvf
  /-- `FAULT`, code 4 -/
  | fault
  deriving DecidableEq, Repr

/-- How the last operation ended (R27). Code 3 does not exist (U3). -/
inductive ErrCode
  /-- `ERR_NONE`, code 0 -/
  | noError
  /-- `ERR_INVALID_PAYLOAD_LENGTH`, code 1 -/
  | invalidPayloadLength
  /-- `ERR_PROTOCOL_VIOLATION`, code 2 -/
  | protocolViolation
  deriving DecidableEq, Repr

/-- The two exceptions of R200. -/
inductive Cause
  /-- END in `FRAME_OVF` (R201) -/
  | invalidPayloadLength
  /-- a reserved word, or a word out of protocol for the phase (R202) -/
  | protocolViolation
  deriving DecidableEq, Repr

/-- The payload buffer (R51): index and byte of every cell written since the last reset event, indices
rising. A cell that is not listed holds no value a claim can read (R41, U8; log 2). -/
abbrev Memory := List Host.Cell

/-- The canonical form: indices strictly rising, and every index below 255 (R51: 0 to 254). -/
abbrev Memory.wf (m : Memory) : Prop :=
  m.Pairwise (fun c d => c.1 < d.1) ∧ ∀ c ∈ m, c.1 < 255

/-- The whole architectural state of one block: the record of the nine fields of R20. -/
structure Codec where
  /-- what the block is doing (R21) -/
  phase : Phase
  /-- the operation code of the current or last operation (R23) -/
  op : BitVec 2
  /-- the CRC shift register (R22) -/
  crc : BitVec 32
  /-- number of payload bytes stored in `buf` (R24) -/
  cnt : BitVec 8
  /-- the checksum of the last completed CRC operation (R25) -/
  result : BitVec 32
  /-- whether `result` holds a checksum (R26) -/
  resultValid : Bool
  /-- the outcome of the last completed or faulted operation (R27) -/
  err : ErrCode
  /-- the payload of the frame operation in progress (R29) -/
  buf : Memory
  /-- every frame the block has emitted, oldest first (R30) -/
  tx : List Bytes
  deriving DecidableEq, Repr

/-- The machine: the block's record, and two fields of the model's own. -/
structure State extends Codec where
  /-- MODEL'S OWN: the events the host has yet to present, the next one first (R243; log 4) -/
  input : List Event
  /-- MODEL'S OWN: the number of reset events since `State.reset`, the index of the free values (log 3) -/
  epoch : Nat
  deriving DecidableEq, Repr

/-- The two ways a run ends without being final (R243; log 6). No instruction raises either. -/
inductive Fault
  /-- Raised by `step` when the events are exhausted and `phase = FAULT`: "An end state with `phase =
  FAULT` is a fault, never final" (R243). Safe: nothing can be proved of such a run's end. -/
  | protocolViolation
  /-- Raised by `step` when the events are exhausted in a busy phase: "An end state with a busy phase is
  stuck (the host abandoned an operation), never final" (R243). Safe: nothing can be proved of such a
  run's end. -/
  | operationNotEnded
  deriving DecidableEq, Repr

/-- Why an instruction has no meaning. -/
inductive Refusal
  /-- Raised by `exec` for an instruction that has no meaning yet (none is left). Safe. -/
  | notModelled (mnemonic : String)
  deriving DecidableEq, Repr

/-- The machine right after reset, with nothing presented and nothing emitted (R41, R234). `crc` and
`result` are unspecified by R41; the zeros are DESIGN CHOICE (log 1). -/
def State.reset : State where
  phase := .idle
  op := 0
  crc := 0
  cnt := 0
  result := 0
  resultValid := false
  err := .noError
  buf := []
  tx := []
  input := []
  epoch := 0

end Sys2Proof.Machine
end

