-- ==== Sys2Proof/Machine/Flags.lean ====
section
/-! DEFINITION. The status codes and the derived flags (R21, R27, R28). The block has no arithmetic
condition codes (R33). -/

namespace Sys2Proof.Machine

/-- The 3-bit code of a phase (R21). -/
def Phase.code : Phase → BitVec 3
  | .idle => 0
  | .crcRun => 1
  | .frameRun => 2
  | .frameOvf => 3
  | .fault => 4

/-- The 2-bit code of an outcome (R27). -/
def ErrCode.code : ErrCode → BitVec 2
  | .noError => 0
  | .invalidPayloadLength => 1
  | .protocolViolation => 2

/-- `busy` (R16, R28): an operation is in progress. -/
def Phase.busy : Phase → Bool
  | .crcRun | .frameRun | .frameOvf => true
  | .idle | .fault => false

/-- `busy`, `faulted` and `overflow`: derived from `phase`, not state (R28). -/
def busy (s : State) : Bool := s.phase.busy
def faulted (s : State) : Bool := s.phase = .fault
def overflow (s : State) : Bool := s.phase = .frameOvf

end Sys2Proof.Machine
end

