-- ==== Sys2Proof/Machine/Crc.lean ====
section
/-! DEFINITION. The CRC engine, layer F: the two parameter sets and `compute_crc` (R100 to R104), and the
equivalent forms the spec gives for cross-checking (R107, R108). -/

namespace Sys2Proof.Machine

/-- The `CRC16` set, CRC-16/CCITT-FALSE (R7, R100). -/
@[reducible] def crc16 : CrcParams where
  width := 16
  poly := 0x1021
  init := 0xFFFF
  refin := false
  refout := false
  xorout := 0x0000

/-- The `CRC32` set (R7, R100). -/
@[reducible] def crc32 : CrcParams where
  width := 32
  poly := 0x04C11DB7
  init := 0xFFFFFFFF
  refin := true
  refout := true
  xorout := 0xFFFFFFFF

/-- `reflect_n(v)`: bit `i` of the result is bit `n-1-i` of `v` (R11). -/
def reflect {n : Nat} (v : BitVec n) : BitVec n := v.reverse

/-- `crc_bit_step` (R101). -/
def crcBitStep (P : CrcParams) (reg : BitVec P.width) (b : Bool) : BitVec P.width :=
  let t := reg ^^^ ((BitVec.ofBool b).setWidth P.width <<< (P.width - 1))
  if t.getLsbD (P.width - 1) then (t <<< 1) ^^^ P.poly else t <<< 1

/-- `crc_byte_step` (R102). -/
def crcByteStep (P : CrcParams) (reg : BitVec P.width) (d : Byte) : BitVec P.width :=
  (List.range 8).foldl (fun r k => crcBitStep P r (d.getLsbD (if P.refin then k else 7 - k))) reg

/-- The register after a byte sequence, index 0 first: the loop of `compute_crc` (R104). -/
def crcUpdate (P : CrcParams) (reg : BitVec P.width) (data : Bytes) : BitVec P.width :=
  data.foldl (crcByteStep P) reg

/-- `crc_finalize` (R103). -/
def crcFinalize (P : CrcParams) (reg : BitVec P.width) : BitVec P.width :=
  (if P.refout then reflect reg else reg) ^^^ P.xorout

/-- `compute_crc` (R104): total on every finite byte sequence (R105, R106). -/
def computeCrc (P : CrcParams) (data : Bytes) : BitVec P.width :=
  crcFinalize P (crcUpdate P P.init data)

/-- The document's bit step on an unbounded integer register: nothing is masked inside a byte (R107). -/
def crcBitStepUnmasked (P : CrcParams) (reg : Nat) (b : Bool) : Nat :=
  let t := reg ^^^ (b.toNat <<< (P.width - 1))
  if t.testBit (P.width - 1) then (t <<< 1) ^^^ P.poly.toNat else t <<< 1

/-- The document's byte step: "Mask the register to `width` bits after each byte" (R107). -/
def crcByteStepMasked (P : CrcParams) (reg : Nat) (d : Byte) : Nat :=
  (List.range 8).foldl (fun r k => crcBitStepUnmasked P r (d.getLsbD (if P.refin then k else 7 - k))) reg
    % 2 ^ P.width

/-- One shift of the cross-check form (a) of R108. -/
def crcShiftLeft (P : CrcParams) (reg : BitVec P.width) : BitVec P.width :=
  if reg.getLsbD (P.width - 1) then (reg <<< 1) ^^^ P.poly else reg <<< 1

/-- The byte step of form (a) of R108: the whole byte enters at the top, then eight shifts. -/
def crcByteAtOnce (P : CrcParams) (reg : BitVec P.width) (d : Byte) : BitVec P.width :=
  let e := if P.refin then reflect d else d
  (List.range 8).foldl (fun r _ => crcShiftLeft P r) (reg ^^^ (e.setWidth P.width <<< (P.width - 8)))

/-- Form (a) of R108. -/
def computeCrcByteAtOnce (P : CrcParams) (data : Bytes) : BitVec P.width :=
  crcFinalize P (data.foldl (crcByteAtOnce P) P.init)

/-- One shift of form (b) of R108, with the reversed polynomial `reflect_32(0x04C11DB7)`. -/
def crc32ShiftRight (r : BitVec 32) : BitVec 32 :=
  if r.getLsbD 0 then (r >>> 1) ^^^ 0xEDB88320 else r >>> 1

/-- The byte step of form (b) of R108. -/
def crc32ByteRight (r : BitVec 32) (d : Byte) : BitVec 32 :=
  (List.range 8).foldl (fun r _ => crc32ShiftRight r) (r ^^^ d.setWidth 32)

/-- Form (b) of R108, CRC32 only. -/
def computeCrc32Right (data : Bytes) : BitVec 32 :=
  data.foldl crc32ByteRight 0xFFFFFFFF ^^^ 0xFFFFFFFF

end Sys2Proof.Machine
end

