-- ==== Sys2Proof/Machine/Frame.lean ====
section
/-! DEFINITION. The frame encoder, layer F: `build_frame` (R140 to R148), and the check procedure a test
bench may use (95_test_vectors.md section 4), which is no operation of the block (D27). -/

namespace Sys2Proof.Machine

/-- `MAX_PAYLOAD` (R7, R142), also the size of the payload buffer in bytes (R51). -/
def maxPayload : Nat := 255

/-- `PREAMBLE` (R7). -/
def preamble : Bytes := [0xAA, 0xAA, 0xAA, 0xAA, 0xAA, 0x7E]

/-- `TRAILER_A` and `TRAILER_B` (R7, R146). -/
def trailer : Variant → Bytes
  | .a => [0xAA, 0xAA, 0xAA, 0xAA, 0xAA, 0x7E]
  | .b => [0xAA, 0xAA, 0xAA, 0xAA, 0xAA, 0xAA]

/-- `be16(v)`, most significant byte first (R12, R54, R144). -/
def be16 (v : BitVec 16) : Bytes := [v.extractLsb' 8 8, v.extractLsb' 0 8]

/-- A frame around a length-prefixed payload and its checksum (R140, R145). -/
def assembleFrame (lengthPrefixed : Bytes) (c : BitVec 16) (v : Variant) : Bytes :=
  preamble ++ lengthPrefixed ++ be16 c ++ trailer v

/-- What `build_frame` returns: a frame, or the error (R140). -/
inductive BuildResult
  | frame (f : Bytes)
  | invalidPayloadLength
  deriving DecidableEq, Repr

/-- `[L] ++ payload` (R143). -/
def lengthPrefixed (payload : Bytes) : Bytes := BitVec.ofNat 8 payload.length :: payload

/-- `build_frame` (R140). -/
def buildFrame (payload : Bytes) (v : Variant) : BuildResult :=
  if payload.length > maxPayload then .invalidPayloadLength
  else .frame (assembleFrame (lengthPrefixed payload) (computeCrc crc16 (lengthPrefixed payload)) v)

/-- `v[hi..lo]` of a byte sequence: `n` bytes from offset `i`. -/
def slice (f : Bytes) (i n : Nat) : Bytes := (f.drop i).take n

/-- `payload_of(f) = f[7..6+L]` (95_test_vectors.md section 4). -/
def payloadOf (f : Bytes) : Bytes := slice f 7 (f.getD 6 0).toNat

/-- `check_frame(f, v)` (95_test_vectors.md section 4, R153): a procedure for tests. -/
def checkFrame (f : Bytes) (v : Variant) : Bool :=
  let l := (f.getD 6 0).toNat
  15 ≤ f.length && slice f 0 6 == preamble && f.length == 15 + l
    && be16 (computeCrc crc16 (slice f 6 (1 + l))) == slice f (7 + l) 2
    && slice f (9 + l) 6 == trailer v

end Sys2Proof.Machine
end

