-- ==== Sys2Proof/Machine/Operands.lean ====
section
/-! DEFINITION. Operand assembly: the operation codes and what they select (R23, R73, R76), and the
passage between the 32-bit field `crc` and the register of the selected width (R14, R22, R119). -/

namespace Sys2Proof.Machine

/-- Operation codes (R23, R75): `opc = arg[1:0]` of the START word. -/
def opCrc16 : BitVec 2 := 0
def opCrc32 : BitVec 2 := 1
def opFrameA : BitVec 2 := 2
def opFrameB : BitVec 2 := 3

/-- `params(op)` (R76). -/
def params (op : BitVec 2) : CrcParams := if op = 1 then crc32 else crc16

/-- Which trailer END appends: `TRAILER_A if op == 2 else TRAILER_B` (R171). -/
def variantOf (op : BitVec 2) : Variant := if op = 2 then .a else .b

/-- `zext_32` (R9). -/
def zext32 {n : Nat} (v : BitVec n) : BitVec 32 := v.setWidth 32

/-- `crc[P.width-1:0]`: the register of the algorithm (R14, R22). -/
def regOf (P : CrcParams) (crc : BitVec 32) : BitVec P.width := crc.setWidth P.width

/-- What DATA does to `crc` in `CRC_RUN` (R170). -/
def crcAfterData (P : CrcParams) (crc : BitVec 32) (d : Byte) : BitVec 32 :=
  zext32 (crcByteStep P (regOf P crc) d)

/-- What END writes to `result` in `CRC_RUN` (R171). -/
def checksumOf (P : CrcParams) (crc : BitVec 32) : BitVec 32 :=
  zext32 (crcFinalize P (regOf P crc))

end Sys2Proof.Machine
end

