-- ==== Sys2Proof/Machine/Ops.lean ====
section
/-! DEFINITION. The named operations: the payload buffer and the output stream (R13, R51, R52), taking an
exception (R207, R208), the reset event, which is the only way back from `FAULT` (R210, R230), and the
end of a run (R243). -/

namespace Sys2Proof.Machine

/-- The byte last written at index `i`, or none where nothing has written it. -/
def Memory.read : Memory → Nat → Option Byte
  | [], _ => none
  | (k, v) :: m, i => if i = k then some v else Memory.read m i

/-- Write one byte, keeping the indices rising. -/
def Memory.write : Memory → Nat → Byte → Memory
  | [], i, v => [(i, v)]
  | (k, x) :: m, i, v =>
    if i < k then (i, v) :: (k, x) :: m
    else if i = k then (i, v) :: m
    else (k, x) :: Memory.write m i v

/-- `MemRead(i, 1)` (R13). A cell that nothing has written since the last reset event gives a FREE VALUE
(R29, U8; log 2). -/
def bufRead (s : State) (i : Nat) : Byte := (Memory.read s.buf i).getD (Config.freeBufByte s.epoch i)

/-- `MemWrite(i, 1, v)` (R13): the block's only store (R175). -/
def bufWrite (s : State) (i : Nat) (v : Byte) : State := { s with buf := Memory.write s.buf i v }

/-- `buf[0..cnt-1]`, in ascending order: the block's only loads (R176). -/
def storedPayload (s : State) : Bytes := (List.range s.cnt.toNat).map (bufRead s)

/-- `emit(f)`: append one whole frame to the output stream (R13, R52). -/
def emit (s : State) (f : Bytes) : State := { s with tx := s.tx ++ [f] }

/-- TAKING AN EXCEPTION: the entry sequences of R207 and R208. Nothing is saved, and control goes
nowhere. -/
def takeException : Cause → State → State
  | .invalidPayloadLength, s => { s with err := .invalidPayloadLength, phase := .idle }
  | .protocolViolation, s => { s with err := .protocolViolation, resultValid := false, phase := .fault }

/-- The reset event (R230), the only way back from `FAULT` (R210). `crc`, `result` and `buf` become
unspecified: free values of the new epoch (log 2, log 3). -/
def resetEvent (s : State) : State :=
  { s with
    phase := .idle
    op := 0
    cnt := 0
    resultValid := false
    err := .noError
    crc := Config.freeCrc (s.epoch + 1)
    result := Config.freeResult (s.epoch + 1)
    buf := []
    epoch := s.epoch + 1 }

/-- What the four START instructions share (R120, R121, R155, R156). -/
def startOperation (opc : BitVec 2) (init : BitVec 32) (run : Phase) (s : State) :
    Host.Outcome State Fault Refusal :=
  match s.phase with
  | .fault => .next s
  | .crcRun | .frameRun | .frameOvf => .next (takeException .protocolViolation s)
  | .idle =>
    .next { s with op := opc, cnt := 0, err := .noError, resultValid := false, crc := init, phase := run }

/-- A reserved word: ignored in `FAULT`, a `ProtocolViolation` in every other phase, whichever row of R77
it is of (R77, R202, R206). -/
def reservedWord (_r : Reserved) (s : State) : Host.Outcome State Fault Refusal :=
  match s.phase with
  | .fault => .next s
  | .idle | .crcRun | .frameRun | .frameOvf => .next (takeException .protocolViolation s)

/-- The events are exhausted and the run ends (R243): in `IDLE` the state is final and "the block does
nothing after that"; `FAULT` is a fault and a busy phase is stuck, never final (log 6). -/
def noEvent (s : State) : Host.Outcome State Fault Refusal :=
  match s.phase with
  | .idle => .next s
  | .fault => .fault .protocolViolation
  | .crcRun | .frameRun | .frameOvf => .fault .operationNotEnded

end Sys2Proof.Machine
end

