-- ==== Sys2Proof/Machine/Start.lean ====
section
/-! DEFINITION. The START family: one meaning per instruction (R120, R121, R155, R156). -/

namespace Sys2Proof.Machine

/-- `START.CRC16` (R120). -/
def execStartCrc16 (s : State) : Host.Outcome State Fault Refusal :=
  startOperation opCrc16 (zext32 crc16.init) .crcRun s

/-- `START.CRC32` (R121). -/
def execStartCrc32 (s : State) : Host.Outcome State Fault Refusal :=
  startOperation opCrc32 (zext32 crc32.init) .crcRun s

/-- `START.FRAMEA` (R155). -/
def execStartFrameA (s : State) : Host.Outcome State Fault Refusal :=
  startOperation opFrameA (zext32 crc16.init) .frameRun s

/-- `START.FRAMEB` (R156). -/
def execStartFrameB (s : State) : Host.Outcome State Fault Refusal :=
  startOperation opFrameB (zext32 crc16.init) .frameRun s

end Sys2Proof.Machine
end

