-- ==== Sys2Proof/Machine/Stream.lean ====
section
/-! DEFINITION. The stream commands DATA and END (R170, R171). -/

namespace Sys2Proof.Machine

/-- DATA in `FRAME_RUN` (R170): store the byte at `buf[cnt]`; the 256th byte is dropped and recorded in
`phase`. -/
def storeData (d : Byte) (s : State) : State :=
  if s.cnt.toNat < maxPayload then bufWrite { s with cnt := s.cnt + 1 } s.cnt.toNat d
  else { s with phase := .frameOvf }

/-- `DATA d` (R170). -/
def execData (d : Byte) (s : State) : Host.Outcome State Fault Refusal :=
  match s.phase with
  | .fault => .next s
  | .idle => .next (takeException .protocolViolation s)
  | .crcRun => .next { s with crc := crcAfterData (params s.op) s.crc d }
  | .frameRun => .next (storeData d s)
  | .frameOvf => .next s

/-- END in `CRC_RUN` (R171): deliver the checksum. -/
def endCrc (s : State) : State :=
  { s with
    result := checksumOf (params s.op) s.crc
    resultValid := true
    err := .noError
    phase := .idle }

/-- The CRC-16 register END computes in `FRAME_RUN`: the length byte first, then `buf[0..L-1]`, from
`crc[15:0]` (R171; log 9). -/
def frameRegister (s : State) : BitVec 16 :=
  crcUpdate crc16 (regOf crc16 s.crc) (s.cnt :: storedPayload s)

/-- The frame END emits in `FRAME_RUN` (R171). -/
def frameOf (s : State) : Bytes :=
  assembleFrame (s.cnt :: storedPayload s) (crcFinalize crc16 (frameRegister s)) (variantOf s.op)

/-- END in `FRAME_RUN` (R171): checksum and emit the whole frame in one step (R58). -/
def endFrame (s : State) : State :=
  emit { s with crc := zext32 (frameRegister s), err := .noError, phase := .idle } (frameOf s)

/-- `END` (R171). -/
def execEnd (s : State) : Host.Outcome State Fault Refusal :=
  match s.phase with
  | .fault => .next s
  | .idle => .next (takeException .protocolViolation s)
  | .crcRun => .next (endCrc s)
  | .frameRun => .next (endFrame s)
  | .frameOvf => .next (takeException .invalidPayloadLength s)

end Sys2Proof.Machine
end

