-- ==== Sys2Proof/Machine/Dispatch.lean ====
section
/-! DEFINITION. One arm per instruction (R75). -/

namespace Sys2Proof.Machine

def exec (i : Instr) (s : State) : Host.Outcome State Fault Refusal :=
  match i with
  | .startCrc16 => Sys2Proof.Machine.execStartCrc16 s
  | .startCrc32 => Sys2Proof.Machine.execStartCrc32 s
  | .startFrameA => Sys2Proof.Machine.execStartFrameA s
  | .startFrameB => Sys2Proof.Machine.execStartFrameB s
  | .data d => Sys2Proof.Machine.execData d s
  | .endOp => Sys2Proof.Machine.execEnd s

end Sys2Proof.Machine
end

