-- ==== Sys2Proof/Machine/Port.lean ====
section
/-! DEFINITION. The command port: what an event does when the host presents it (R16, R70, R206, R230). -/

namespace Sys2Proof.Machine

/-- A command word is decoded, and executed or rejected, as it arrives (R32, R78, R206). -/
def presentWord (w : CmdWord) (s : State) : Host.Outcome State Fault Refusal :=
  match decode w with
  | .instr i => exec i s
  | .reserved r => reservedWord r s

/-- One event, one atomic step (R16, R58, R230). -/
def present (e : Event) (s : State) : Host.Outcome State Fault Refusal :=
  match e with
  | .word w => presentWord w s
  | .reset => .next (resetEvent s)

/-- The state in which the host presents the word `x` next, before the events it was to present. -/
def withNextWord (s : State) (x : CmdWord) : State := { s with input := .word x :: s.input }

end Sys2Proof.Machine
end

