-- ==== Sys2Proof/Machine/Step.lean ====
section
/-! DEFINITION. One step of the machine: take the next event and let the block act on it (R17, R173). -/

namespace Sys2Proof.Machine

/-- One step per event, in the order presented (R17, R173); with no event left the run has ended (R243). -/
def step (s : State) : Host.Outcome State Fault Refusal :=
  match s.input with
  | [] => noEvent s
  | e :: es => present e { s with input := es }

/-- `s` with the instruction whose bits are `w` as the next word the host presents (log 4, log 10). -/
def State.withFetchWord (s : State) (nbits w : Nat) : State :=
  match portWord nbits w with
  | some x => withNextWord s x
  | none => s

end Sys2Proof.Machine
end

