-- ==== Sys2Proof/Machine/Registers.lean ====
section
/-! DEFINITION. The three read-only registers the host reads outside the command stream (R34 to R37).
They are views of the state: a read changes nothing (R37, R59; log 8). -/

namespace Sys2Proof.Machine

/-- The registers by name (R34 to R36). -/
inductive HostReg
  | status
  | result
  | count
  deriving DecidableEq, Repr

/-- The register numbers 0, 1, 2 (R34 to R37); no other number names a register (R60). -/
def HostReg.ofNumber : Nat → Option HostReg
  | 0 => some .status
  | 1 => some .result
  | 2 => some .count
  | _ => none

/-- `STATUS` (R34): OP in bits 7:6, RV in bit 5, ERR in bits 4:3, PHASE in bits 2:0. -/
def statusReg (s : State) : BitVec 8 :=
  s.op ++ (BitVec.ofBool s.resultValid ++ (s.err.code ++ s.phase.code))

/-- `RESULT` (R35): "A read while `result_valid = 0` returns an unspecified value ...; a model gives such a
read no value" (log 7). -/
def resultReg (s : State) : Option (BitVec 32) := if s.resultValid then some s.result else none

/-- `COUNT` (R36). -/
def countReg (s : State) : BitVec 8 := s.cnt

/-- A value of a register's own width. -/
structure RegValue where
  width : Nat
  value : BitVec width
  deriving DecidableEq, Repr

/-- A read of a register (R37). -/
def readReg (r : HostReg) (s : State) : Option RegValue :=
  match r with
  | .status => some ⟨8, statusReg s⟩
  | .result => (resultReg s).map (RegValue.mk 32)
  | .count => some ⟨8, countReg s⟩

end Sys2Proof.Machine
end

