-- ==== Sys2Proof/Safety.lean ====
section
/-! DEFINITION. What counts as a safe run: how a run ends and what is observed then (R243), the named
premise of R234, what an operation amounts to in the document's own terms (R177 to R179), and the
invariant of the states a run can reach. -/

namespace Sys2Proof.Safety

open Sys2Proof.Machine

/-- `k` steps of the machine, stopping at the first fault or refusal. -/
def run (k : Nat) (s : State) : Host.Outcome State Fault Refusal := Host.Core.run Sys2Proof.core k s

/-- The second half of R234's named premise, "a reset has occurred and no fault is recorded" (the first
half is that a run starts from `State.reset`). -/
abbrev NoFaultRecorded (s : State) : Prop := s.phase ≠ .fault

/-- What is observed of a final state (R243): `tx`, and for the last operation `err`, `op`, `cnt`, and
`result` if `result_valid = 1`. -/
structure Observation where
  tx : List Bytes
  err : ErrCode
  op : BitVec 2
  cnt : BitVec 8
  result : Option (BitVec 32)
  deriving DecidableEq, Repr

/-- The observation of a state (R243). -/
def observe (s : State) : Observation where
  tx := s.tx
  err := s.err
  op := s.op
  cnt := s.cnt
  result := resultReg s

/-- How a run ends (R243). -/
inductive RunEnd
  | final (o : Observation)
  | fault
  | stuck
  deriving DecidableEq, Repr

/-- The end of a run whose end state is `s` (R243). -/
def runEnd (s : State) : RunEnd :=
  match s.phase with
  | .idle => .final (observe s)
  | .fault => .fault
  | .crcRun | .frameRun | .frameOvf => .stuck

/-- The frame the document's function gives for a macro-operation, if it gives one (R178, R83, R84). -/
def frameOutput : Macro → Option Bytes
  | .crc16 _ | .crc32 _ => none
  | .frameA p => match buildFrame p .a with | .frame f => some f | .invalidPayloadLength => none
  | .frameB p => match buildFrame p .b with | .frame f => some f | .invalidPayloadLength => none

/-- The checksum the document's function gives for a macro-operation, if it gives one (R177, R81, R82). -/
def checksumOutput : Macro → Option (BitVec 32)
  | .crc16 d => some (zext32 (computeCrc crc16 d))
  | .crc32 d => some (computeCrc crc32 d)
  | .frameA _ | .frameB _ => none

/-- The error code a macro-operation ends with (R177, R178). -/
def errorOutput : Macro → ErrCode
  | .crc16 _ | .crc32 _ => .noError
  | .frameA p | .frameB p => if p.length > maxPayload then .invalidPayloadLength else .noError

/-- The operation code a macro-operation leaves (R177, R178). -/
def opOutput : Macro → BitVec 2
  | .crc16 _ => opCrc16
  | .crc32 _ => opCrc32
  | .frameA _ => opFrameA
  | .frameB _ => opFrameB

/-- The count a macro-operation leaves (R177, R178). -/
def countOutput : Macro → BitVec 8
  | .crc16 _ | .crc32 _ => 0
  | .frameA p | .frameB p => BitVec.ofNat 8 (min p.length maxPayload)

/-- A byte sequence that `build_frame` makes (R140). -/
def IsFrame (f : Bytes) : Prop := ∃ p v, buildFrame p v = .frame f

/-- The event `e` is the word of the instruction `i` (R75). -/
def IsWordOf (e : Event) (i : Instr) : Prop := ∃ w, e = .word w ∧ decode w = .instr i

/-- The event `e` is a START word. -/
def IsStartWord (e : Event) : Prop := ∃ i : Instr, i.isStart = true ∧ IsWordOf e i

/-- The event `e` is a DATA word. -/
def IsDataWord (e : Event) : Prop := ∃ d : Byte, IsWordOf e (.data d)

/-- The event `e` is a reserved word (R77). -/
def IsReservedWord (e : Event) : Prop := ∃ w r, e = .word w ∧ decode w = .reserved r

/-- The cases (a) to (d) of R202 in which the event `e` raises a `ProtocolViolation`, for a phase that is
not `FAULT`. -/
def Violates (e : Event) (ph : Phase) : Prop :=
  IsReservedWord e ∨ (IsStartWord e ∧ ph.busy = true) ∨ (IsDataWord e ∧ ph = .idle) ∨
    (IsWordOf e .endOp ∧ ph = .idle)

/-- The columns of the phase table of R172, START split by the unit it starts, and the reset event. -/
inductive Column
  | startCrc
  | startFrame
  | data
  | endOp
  | reserved
  | reset
  deriving DecidableEq, Repr

/-- The column an event belongs to. -/
def columnOf : Event → Column
  | .reset => .reset
  | .word w =>
    match decode w with
    | .instr .startCrc16 => .startCrc
    | .instr .startCrc32 => .startCrc
    | .instr .startFrameA => .startFrame
    | .instr .startFrameB => .startFrame
    | .instr (.data _) => .data
    | .instr .endOp => .endOp
    | .reserved _ => .reserved

/-- The phase table of R172: the phase after an event, from the phase before it and `cnt`. -/
def phaseTable (before : Phase) (cnt : BitVec 8) : Column → Phase
  | .startCrc =>
    match before with
    | .idle => .crcRun
    | .crcRun | .frameRun | .frameOvf | .fault => .fault
  | .startFrame =>
    match before with
    | .idle => .frameRun
    | .crcRun | .frameRun | .frameOvf | .fault => .fault
  | .data =>
    match before with
    | .idle => .fault
    | .crcRun => .crcRun
    | .frameRun => if cnt.toNat < 255 then .frameRun else .frameOvf
    | .frameOvf => .frameOvf
    | .fault => .fault
  | .endOp =>
    match before with
    | .idle => .fault
    | .crcRun | .frameRun | .frameOvf => .idle
    | .fault => .fault
  | .reserved => .fault
  | .reset => .idle

/-- What holds of every state a run from `State.reset` reaches: the spec's remarks on its fields, taken
together. -/
structure Inv (s : State) : Prop where
  /-- the buffer keeps its canonical form and has no index above 254 (R51) -/
  bufWf : s.buf.wf
  /-- in `CRC_RUN` the operation is 0 or 1 and counts nothing (R21, R24) -/
  crcRun : s.phase = .crcRun → (s.op = opCrc16 ∨ s.op = opCrc32) ∧ s.cnt = 0
  /-- while CRC-16 is in force the upper half of `crc` is zero (R22, R119) -/
  crcUpper : s.phase = .crcRun → s.op = opCrc16 → s.crc.extractLsb' 16 16 = 0
  /-- in `FRAME_RUN` and `FRAME_OVF` the operation is 2 or 3 and `crc` is as START loaded it (R21, R207) -/
  frame : s.phase = .frameRun ∨ s.phase = .frameOvf →
    (s.op = opFrameA ∨ s.op = opFrameB) ∧ s.crc = 0x0000FFFF
  /-- every index below `cnt` has been written (R29, R62) -/
  stored : s.phase = .frameRun ∨ s.phase = .frameOvf →
    ∀ i < s.cnt.toNat, (Memory.read s.buf i).isSome
  /-- an overflow is recorded at the full count (R24) -/
  overflow : s.phase = .frameOvf → s.cnt = 255
  /-- while busy nothing is reported: START cleared both (R26, R27) -/
  busyClean : s.phase.busy = true → s.err = .noError ∧ s.resultValid = false
  /-- `FAULT` and the code 2 go together (R27, R208, R210) -/
  faultErr : s.phase = .fault ↔ s.err = .protocolViolation
  /-- the code 1 is that of an ended frame operation, with the full count (R200, R207) -/
  lengthErr : s.err = .invalidPayloadLength →
    s.phase = .idle ∧ (s.op = opFrameA ∨ s.op = opFrameB) ∧ s.cnt = 255
  /-- `result_valid` says that the last operation was a CRC operation that ended without error (R26) -/
  valid : s.resultValid = true →
    s.phase = .idle ∧ s.err = .noError ∧ (s.op = opCrc16 ∨ s.op = opCrc32) ∧ s.cnt = 0
  /-- a valid CRC-16 result has a zero upper half (R25, R35) -/
  resultUpper : s.resultValid = true → s.op = opCrc16 → s.result.extractLsb' 16 16 = 0
  /-- the output stream holds whole frames only (R30, R52) -/
  frames : ∀ f ∈ s.tx, IsFrame f

end Sys2Proof.Safety
end

