-- ==== Sys2Proof/Certificates/Slice0/Obligations.lean ====
section
/-! DEFINITION. The statements for the provers. Each docstring names the rules of spec/ it formalises; a
clause that rests on a choice of the model names the log entry. -/

open Sys2Proof Sys2Proof.Machine Sys2Proof.Safety

/-! ### Notation and the CRC engine (layer F) -/

/-- R11: `reflect_n(v)` has bit `v[n-1-i]` at `i`, and reflecting twice gives `v` back. -/
def Obligations.ReflectReversesBits : Prop :=
  ∀ (n : Nat) (v : BitVec n),
    (∀ i < n, (reflect v).getLsbD i = v.getLsbD (n - 1 - i)) ∧ reflect (reflect v) = v

/-- R101: the bit step in the integers, as the rule writes it; the test is on `reg[w-1] XOR b`. -/
def Obligations.CrcBitStepInIntegers : Prop :=
  ∀ (P : CrcParams) (reg : BitVec P.width) (b : Bool), 0 < P.width →
    let t := reg.toNat ^^^ (b.toNat * 2 ^ (P.width - 1))
    ((crcBitStep P reg b).toNat =
      if t / 2 ^ (P.width - 1) % 2 = 1 then (t * 2 % 2 ^ P.width) ^^^ P.poly.toNat
      else t * 2 % 2 ^ P.width) ∧
    (t / 2 ^ (P.width - 1) % 2 = 1 ↔ (reg.getLsbD (P.width - 1) ^^ b) = true)

/-- R102: most significant bit first without input reflection; least significant bit first with it, which
is the other order run on the reflected byte. -/
def Obligations.CrcByteStepBitOrder : Prop :=
  ∀ (P : CrcParams) (reg : BitVec P.width) (d : Byte),
    (P.refin = false →
      crcByteStep P reg d =
        [7, 6, 5, 4, 3, 2, 1, 0].foldl (fun r i => crcBitStep P r (d.getLsbD i)) reg) ∧
    (P.refin = true →
      crcByteStep P reg d =
        [0, 1, 2, 3, 4, 5, 6, 7].foldl (fun r i => crcBitStep P r (d.getLsbD i)) reg ∧
      crcByteStep P reg d =
        [7, 6, 5, 4, 3, 2, 1, 0].foldl (fun r i => crcBitStep P r ((reflect d).getLsbD i)) reg)

/-- R103: output reflection over the whole width, then xor-out; the identity for `CRC16`, and
`reflect_32(reg) XOR 0xFFFFFFFF` for `CRC32`. -/
def Obligations.CrcFinalizeByBits : Prop :=
  (∀ (P : CrcParams) (reg : BitVec P.width), ∀ i < P.width,
    (crcFinalize P reg).getLsbD i =
      (reg.getLsbD (if P.refout then P.width - 1 - i else i) ^^ P.xorout.getLsbD i)) ∧
  (∀ reg : BitVec 16, crcFinalize crc16 reg = reg) ∧
  (∀ reg : BitVec 32, crcFinalize crc32 reg = reflect reg ^^^ 0xFFFFFFFF)

/-- R107: the document's register of unbounded integers, masked once per byte, gives the same checksum. -/
def Obligations.MaskPerByteGivesSameChecksum : Prop :=
  ∀ (P : CrcParams) (data : Bytes), 0 < P.width →
    data.foldl (crcByteStepMasked P) P.init.toNat < 2 ^ P.width ∧
    crcFinalize P (BitVec.ofNat P.width (data.foldl (crcByteStepMasked P) P.init.toNat)) =
      computeCrc P data

/-- R108: the two cross-check forms are equal to `compute_crc` on every input. -/
def Obligations.CrossCheckFormsAgree : Prop :=
  (∀ (P : CrcParams) (data : Bytes), 8 ≤ P.width → computeCrcByteAtOnce P data = computeCrc P data) ∧
  (∀ data : Bytes, computeCrc32Right data = computeCrc crc32 data)

/-- R110: appending its own CRC-16, high byte first, makes the checksum zero; so the CRC-16 over the length
byte, payload and checksum bytes of a frame is zero. -/
def Obligations.ChecksummedSequenceHasZeroResidue : Prop :=
  (∀ m : Bytes, computeCrc crc16 (m ++ be16 (computeCrc crc16 m)) = 0) ∧
  (∀ (p f : Bytes) (v : Variant), buildFrame p v = .frame f →
    computeCrc crc16 (slice f 6 (3 + p.length)) = 0)

/-- R119: with `CRC16` in force the engine works on `crc[15:0]`, and `crc[31:16]` stays zero. -/
def Obligations.Crc16UsesLowerHalf : Prop :=
  ∀ (c : BitVec 32) (d : Byte),
    (zext32 crc16.init).extractLsb' 16 16 = 0 ∧
    (crcAfterData crc16 c d).extractLsb' 16 16 = 0 ∧
    (crcAfterData crc16 c d).extractLsb' 0 16 = crcByteStep crc16 (c.extractLsb' 0 16) d ∧
    (checksumOf crc16 c).extractLsb' 16 16 = 0 ∧
    (checksumOf crc16 c).extractLsb' 0 16 = crcFinalize crc16 (c.extractLsb' 0 16)

/-! ### The frame encoder (layer F) -/

/-- R142: a payload of 0 to 255 bytes is accepted, a longer one is refused. -/
def Obligations.PayloadLengthCheck : Prop :=
  ∀ (p : Bytes) (v : Variant),
    (p.length ≤ 255 → ∃ f, buildFrame p v = .frame f) ∧
    (256 ≤ p.length → buildFrame p v = .invalidPayloadLength)

/-- R143, R144, R145, R147: the layout of a frame, offset by offset. -/
def Obligations.FrameLayout : Prop :=
  ∀ (p f : Bytes) (v : Variant), buildFrame p v = .frame f →
    let n := p.length
    let c := computeCrc crc16 (BitVec.ofNat 8 n :: p)
    n ≤ 255 ∧ f.length = 15 + n ∧ 15 ≤ f.length ∧ f.length ≤ 270 ∧
    (∀ i < 5, f[i]? = some 0xAA) ∧ f[5]? = some 0x7E ∧
    f[6]? = some (BitVec.ofNat 8 n) ∧
    (∀ i < n, f[7 + i]? = p[i]?) ∧
    f[7 + n]? = some (c.extractLsb' 8 8) ∧ f[8 + n]? = some (c.extractLsb' 0 8) ∧
    (∀ i < 5, f[9 + n + i]? = some 0xAA) ∧
    f[14 + n]? = some (match v with | .a => 0x7E | .b => 0xAA)

/-- R146: the two variants have the same frame but for its last byte, and the trailers the rule gives. -/
def Obligations.VariantsDifferInLastByteOnly : Prop :=
  ∀ p : Bytes, p.length ≤ 255 →
    ∃ body, body.length = 14 + p.length ∧
      buildFrame p .a = .frame (body ++ [0x7E]) ∧ buildFrame p .b = .frame (body ++ [0xAA]) ∧
      slice (body ++ [0x7E]) (9 + p.length) 6 = [0xAA, 0xAA, 0xAA, 0xAA, 0xAA, 0x7E] ∧
      slice (body ++ [0xAA]) (9 + p.length) 6 = [0xAA, 0xAA, 0xAA, 0xAA, 0xAA, 0xAA]

/-- R153: the round trip. The check procedure of 95_test_vectors.md section 4 accepts the frame. -/
def Obligations.FrameRoundTrip : Prop :=
  ∀ (p : Bytes) (v : Variant), p.length ≤ 255 →
    ∃ f, buildFrame p v = .frame f ∧
      slice f 0 6 = preamble ∧ f[6]? = some (BitVec.ofNat 8 p.length) ∧ slice f 7 p.length = p ∧
      (computeCrc crc16 (slice f 6 (1 + p.length))).toNat =
        (f.getD (7 + p.length) 0).toNat * 256 + (f.getD (8 + p.length) 0).toNat ∧
      slice f (9 + p.length) 6 = trailer v ∧ f.length = 15 + p.length ∧
      computeCrc crc16 (slice f 6 (3 + p.length)) = 0 ∧
      checkFrame f v = true ∧ payloadOf f = p

/-! ### Encoding -/

/-- R75: words written out from the spec's opcode map, and what they stand for. -/
def Obligations.SpecWordsDecode : Prop :=
  decode 0b0000000000#10 = .instr .startCrc16 ∧ decode 0b0000000001#10 = .instr .startCrc32 ∧
  decode 0b0000000010#10 = .instr .startFrameA ∧ decode 0b0000000011#10 = .instr .startFrameB ∧
  decode 0b0100110001#10 = .instr (.data 0x31) ∧ decode 0b0111111111#10 = .instr (.data 0xFF) ∧
  decode 0b1000000000#10 = .instr .endOp

/-- R75: exactly one row of the opcode map, or none, matches any word, and it is the decoder's. -/
def Obligations.OneRowOrNoneMatches : Prop :=
  ∀ w : CmdWord,
    selectedRows w = match decode w with | .instr i => [i.mnemonic] | .reserved _ => []

/-- R77: the reserved words are exactly those three ranges, 763 words in all, and presenting one is a
`ProtocolViolation` in every phase but `FAULT`, where it is ignored. -/
def Obligations.ReservedWords : Prop :=
  (∀ w : CmdWord,
    (decode w = .reserved .startArg ↔ 0x004 ≤ w.toNat ∧ w.toNat ≤ 0x0FF) ∧
    (decode w = .reserved .endArg ↔ 0x201 ≤ w.toNat ∧ w.toNat ≤ 0x2FF) ∧
    (decode w = .reserved .kindThree ↔ 0x300 ≤ w.toNat)) ∧
  ((List.range 1024).filter (fun n =>
    match decode (BitVec.ofNat 10 n) with | .instr _ => false | .reserved _ => true)).length = 763 ∧
  (∀ (w : CmdWord) (r : Reserved) (s : State), decode w = .reserved r →
    (s.phase = .fault → present (.word w) s = .next s) ∧
    (s.phase ≠ .fault →
      present (.word w) s =
        .next { s with err := .protocolViolation, resultValid := false, phase := .fault }))

/-- Decoding gives back every well-formed instruction that was encoded, with every operand value, and
encoding gives back every word that decodes to an instruction (R70, R73, R75). -/
def Obligations.DecodeEncodeInverse : Prop :=
  (∀ i : Instr, i.wf = true →
    decode (encode i) = .instr i ∧ decodeTableWord 16 (encode i).toNat = some i) ∧
  (∀ (w : CmdWord) (i : Instr), decode w = .instr i → encode i = w)

/-! ### The instructions -/

/-- R120 and R121: the words of START.CRC16 and START.CRC32, what they do in every phase, and what follows
them. Everything a record update does not name keeps its value. -/
def Obligations.StartCrcOperation : Prop :=
  decode 0x000#10 = .instr .startCrc16 ∧ decode 0x001#10 = .instr .startCrc32 ∧
  ∀ s : State,
    (s.phase = .idle →
      exec .startCrc16 s = .next { s with
        op := 0, cnt := 0, err := .noError, resultValid := false, crc := 0x0000FFFF, phase := .crcRun } ∧
      exec .startCrc32 s = .next { s with
        op := 1, cnt := 0, err := .noError, resultValid := false, crc := 0xFFFFFFFF, phase := .crcRun }) ∧
    (s.phase = .crcRun ∨ s.phase = .frameRun ∨ s.phase = .frameOvf →
      exec .startCrc16 s = .next { s with
        err := .protocolViolation, resultValid := false, phase := .fault } ∧
      exec .startCrc32 s = .next { s with
        err := .protocolViolation, resultValid := false, phase := .fault }) ∧
    (s.phase = .fault → exec .startCrc16 s = .next s ∧ exec .startCrc32 s = .next s) ∧
    (s.phase = .crcRun → s.op = 0 →
      (∀ d, exec (.data d) s =
        .next { s with crc := (crcByteStep crc16 (s.crc.extractLsb' 0 16) d).setWidth 32 }) ∧
      exec .endOp s = .next { s with
        result := (crcFinalize crc16 (s.crc.extractLsb' 0 16)).setWidth 32, resultValid := true,
        err := .noError, phase := .idle }) ∧
    (s.phase = .crcRun → s.op = 1 →
      (∀ d, exec (.data d) s = .next { s with crc := crcByteStep crc32 s.crc d }) ∧
      exec .endOp s = .next { s with
        result := reflect s.crc ^^^ 0xFFFFFFFF, resultValid := true, err := .noError, phase := .idle })

/-- R155 and R156: the words of START.FRAMEA and START.FRAMEB, what they do in every phase, and what follows
them. -/
def Obligations.StartFrameOperation : Prop :=
  decode 0x002#10 = .instr .startFrameA ∧ decode 0x003#10 = .instr .startFrameB ∧
  ∀ s : State,
    (s.phase = .idle →
      exec .startFrameA s = .next { s with
        op := 2, cnt := 0, err := .noError, resultValid := false, crc := 0x0000FFFF, phase := .frameRun } ∧
      exec .startFrameB s = .next { s with
        op := 3, cnt := 0, err := .noError, resultValid := false, crc := 0x0000FFFF, phase := .frameRun }) ∧
    (s.phase = .crcRun ∨ s.phase = .frameRun ∨ s.phase = .frameOvf →
      exec .startFrameA s = .next { s with
        err := .protocolViolation, resultValid := false, phase := .fault } ∧
      exec .startFrameB s = .next { s with
        err := .protocolViolation, resultValid := false, phase := .fault }) ∧
    (s.phase = .fault → exec .startFrameA s = .next s ∧ exec .startFrameB s = .next s) ∧
    (∀ d, s.phase = .frameRun → s.cnt.toNat < 255 →
      exec (.data d) s =
        .next { s with buf := Memory.write s.buf s.cnt.toNat d, cnt := s.cnt + 1 }) ∧
    (∀ d, s.phase = .frameRun → s.cnt = 255 → exec (.data d) s = .next { s with phase := .frameOvf }) ∧
    (s.phase = .frameRun → s.op = 2 ∨ s.op = 3 →
      ∃ t body, exec .endOp s = .next t ∧ t.phase = .idle ∧ t.err = .noError ∧
        body = s.cnt :: (List.range s.cnt.toNat).map (bufRead s) ∧
        t.tx = s.tx ++ [[0xAA, 0xAA, 0xAA, 0xAA, 0xAA, 0x7E] ++ body ++
          be16 (crcUpdate crc16 (s.crc.extractLsb' 0 16) body) ++
          (if s.op = 2 then [0xAA, 0xAA, 0xAA, 0xAA, 0xAA, 0x7E]
            else [0xAA, 0xAA, 0xAA, 0xAA, 0xAA, 0xAA])]) ∧
    (s.phase = .frameOvf →
      exec .endOp s = .next { s with err := .invalidPayloadLength, phase := .idle })

/-- R170: the words of DATA, and what DATA does in every phase. -/
def Obligations.DataInEveryPhase : Prop :=
  (∀ d : Byte, decode (0x100#10 + d.setWidth 10) = .instr (.data d)) ∧
  ∀ (d : Byte) (s : State),
    (s.phase = .fault → exec (.data d) s = .next s) ∧
    (s.phase = .idle → exec (.data d) s = .next { s with
      err := .protocolViolation, resultValid := false, phase := .fault }) ∧
    (s.phase = .crcRun → exec (.data d) s = .next { s with
      crc := (crcByteStep (params s.op) (s.crc.setWidth (params s.op).width) d).setWidth 32 }) ∧
    (s.phase = .frameRun → s.cnt.toNat < 255 → exec (.data d) s = .next { s with
      buf := Memory.write s.buf s.cnt.toNat d, cnt := s.cnt + 1 }) ∧
    (s.phase = .frameRun → s.cnt.toNat = 255 → exec (.data d) s = .next { s with
      phase := .frameOvf }) ∧
    (s.phase = .frameOvf → exec (.data d) s = .next s)

/-- R175: the block's only store. DATA in `FRAME_RUN` below the full count writes the byte at index `cnt`
(at most 254) and nowhere else; nothing else an instruction does changes the buffer. -/
def Obligations.OnlyDataStores : Prop :=
  (∀ (d : Byte) (s : State), s.phase = .frameRun → s.cnt.toNat < 255 →
    ∃ t, exec (.data d) s = .next t ∧ s.cnt.toNat ≤ 254 ∧ bufRead t s.cnt.toNat = d ∧
      (∀ a, a ≠ s.cnt.toNat → bufRead t a = bufRead s a) ∧ t.cnt.toNat = s.cnt.toNat + 1) ∧
  (∀ (i : Instr) (s t : State), exec i s = .next t →
    ¬ ((∃ d, i = .data d) ∧ s.phase = .frameRun ∧ s.cnt.toNat < 255) →
    t.buf = s.buf ∧ ∀ a, bufRead t a = bufRead s a)

/-- R171: the word of END, and what END does in every phase. -/
def Obligations.EndInEveryPhase : Prop :=
  decode 0x200#10 = .instr .endOp ∧
  ∀ s : State,
    (s.phase = .fault → exec .endOp s = .next s) ∧
    (s.phase = .idle → exec .endOp s = .next { s with
      err := .protocolViolation, resultValid := false, phase := .fault }) ∧
    (s.phase = .crcRun → exec .endOp s = .next { s with
      result := (crcFinalize (params s.op) (s.crc.setWidth (params s.op).width)).setWidth 32,
      resultValid := true, err := .noError, phase := .idle }) ∧
    (s.phase = .frameRun →
      let payload := (List.range s.cnt.toNat).map (bufRead s)
      let r : BitVec 16 := (s.cnt :: payload).foldl (crcByteStep crc16) (s.crc.extractLsb' 0 16)
      exec .endOp s = .next { s with
        crc := r.setWidth 32
        tx := s.tx ++ [[0xAA, 0xAA, 0xAA, 0xAA, 0xAA, 0x7E] ++ [s.cnt] ++ payload ++
          [r.extractLsb' 8 8, r.extractLsb' 0 8] ++
          (if s.op = 2 then [0xAA, 0xAA, 0xAA, 0xAA, 0xAA, 0x7E]
            else [0xAA, 0xAA, 0xAA, 0xAA, 0xAA, 0xAA])]
        err := .noError
        phase := .idle }) ∧
    (s.phase = .frameOvf →
      exec .endOp s = .next { s with err := .invalidPayloadLength, phase := .idle })

/-- The order of the stored bytes (R62, R176): the `i`-th DATA byte of a frame operation is the one at index
`i`, and every index at or above the count reads as before. -/
def Obligations.DataBytesAreStoredInOrder : Prop :=
  ∀ (s : State) (p : Bytes) (rest : List Event), s.phase = .frameRun → s.cnt = 0 → p.length ≤ 255 →
    s.input = wordsOf (p.map .data) ++ rest →
    ∃ t, run p.length s = .next t ∧ t.phase = .frameRun ∧
      t.cnt.toNat = p.length ∧ (List.range t.cnt.toNat).map (bufRead t) = p ∧
      (∀ i, p.length ≤ i → bufRead t i = bufRead s i) ∧ t.crc = s.crc ∧ t.tx = s.tx ∧ t.input = rest

/-! ### Exceptions -/

/-- R202: the cases (a) to (d) that raise `ProtocolViolation`, and that no other event raises it. -/
def Obligations.ViolationCases : Prop :=
  ∀ (e : Event) (s : State), NoFaultRecorded s →
    ∃ t, present e s = .next t ∧
      (t.phase = .fault ↔
        (∃ w r, e = .word w ∧ decode w = .reserved r) ∨
        (∃ (w : CmdWord) (i : Instr), e = .word w ∧ decode w = .instr i ∧ i.isStart = true ∧
          (s.phase = .crcRun ∨ s.phase = .frameRun ∨ s.phase = .frameOvf)) ∨
        (∃ w d, e = .word w ∧ decode w = .instr (.data d) ∧ s.phase = .idle) ∨
        (∃ w, e = .word w ∧ decode w = .instr .endOp ∧ s.phase = .idle))

/-- R208: the entry for `ProtocolViolation`, in every raising case: three fields and nothing else. -/
def Obligations.ViolationEntry : Prop :=
  ∀ (w : CmdWord) (s : State), NoFaultRecorded s → Violates (.word w) s.phase →
    present (.word w) s =
      .next { s with err := .protocolViolation, resultValid := false, phase := .fault }

/-- R207: the entry for `InvalidPayloadLength`, and what the untouched fields hold then. -/
def Obligations.PayloadLengthErrorEntry : Prop :=
  ∀ s : State, s.phase = .frameOvf →
    exec .endOp s = .next { s with err := .invalidPayloadLength, phase := .idle } ∧
    (Inv s → s.cnt = 255 ∧ s.crc = 0x0000FFFF ∧ s.resultValid = false)

/-- R206: the order of the checks, first match wins. -/
def Obligations.CheckPriority : Prop :=
  ∀ (w : CmdWord) (s : State),
    (s.phase = .fault → present (.word w) s = .next s) ∧
    (s.phase ≠ .fault → (∃ r, decode w = .reserved r) →
      present (.word w) s = .next (takeException .protocolViolation s)) ∧
    (∀ i : Instr, s.phase ≠ .fault → decode w = .instr i →
      (i.isStart = true ∧ s.phase.busy = true) ∨ (i.isStart = false ∧ s.phase = .idle) →
      present (.word w) s = .next (takeException .protocolViolation s)) ∧
    (decode w = .instr .endOp → s.phase = .frameOvf →
      present (.word w) s = .next (takeException .invalidPayloadLength s)) ∧
    (∀ i : Instr, s.phase ≠ .fault → decode w = .instr i →
      ¬ ((i.isStart = true ∧ s.phase.busy = true) ∨ (i.isStart = false ∧ s.phase = .idle)) →
      ¬ (i = .endOp ∧ s.phase = .frameOvf) →
      ∃ t, present (.word w) s = .next t ∧ exec i s = .next t ∧ t.phase ≠ .fault ∧
        (t.err = .invalidPayloadLength → s.err = .invalidPayloadLength))

/-- R210: in `FAULT` every word is ignored, however many come, and the reset event leaves `FAULT`. -/
def Obligations.FaultIsLeftOnlyByReset : Prop :=
  ∀ (s : State) (ws : List CmdWord) (rest : List Event), s.phase = .fault →
    s.input = ws.map .word ++ rest →
    run ws.length s = .next { s with input := rest } ∧
    ∃ t, present .reset s = .next t ∧ t.phase = .idle ∧ t.err = .noError

/-! ### Reset -/

/-- R230: the reset event, in every phase; the events still to come are not touched. Nothing is said of `crc`, `result` and `buf`, which become
unspecified (log 2, log 3). -/
def Obligations.ResetEventEffect : Prop :=
  ∀ s : State, ∃ t, present .reset s = .next t ∧
    t.phase = .idle ∧ t.op = 0 ∧ t.cnt = 0 ∧ t.resultValid = false ∧ t.err = .noError ∧
    t.tx = s.tx ∧ t.input = s.input

/-- R41: the fields after a reset event, and at the start of a run, where `tx` is empty. -/
def Obligations.StateAfterReset : Prop :=
  (∀ s t : State, present .reset s = .next t →
    t.phase = .idle ∧ t.op = 0 ∧ t.cnt = 0 ∧ t.resultValid = false ∧ t.err = .noError ∧ t.tx = s.tx ∧
    statusReg t = 0x00 ∧ countReg t = 0x00 ∧ resultReg t = none) ∧
  (State.reset.phase = .idle ∧ State.reset.op = 0 ∧ State.reset.cnt = 0 ∧
    State.reset.resultValid = false ∧ State.reset.err = .noError ∧ State.reset.tx = [] ∧
    statusReg State.reset = 0x00 ∧ countReg State.reset = 0x00 ∧ resultReg State.reset = none)

/-- R231: after a reset event in any state, the first operation behaves as the document's function. -/
def Obligations.FirstOperationAfterReset : Prop :=
  ∀ (s : State) (m : Macro) (rest : List Event), s.input = .reset :: (wordsOf m.expand ++ rest) →
    ∃ t, run (1 + m.expand.length) s = .next t ∧ t.phase = .idle ∧
      t.tx = s.tx ++ (frameOutput m).toList ∧ t.err = errorOutput m ∧ t.op = opOutput m ∧
      t.cnt = countOutput m ∧ resultReg t = checksumOutput m ∧ t.input = rest

/-! ### The registers the host reads -/

/-- R34: the number and the fields of `STATUS`. -/
def Obligations.StatusRegisterFields : Prop :=
  HostReg.ofNumber 0 = some .status ∧
  ∀ s : State, readReg .status s = some ⟨8, statusReg s⟩ ∧
    (statusReg s).toNat =
      s.op.toNat * 64 + s.resultValid.toNat * 32 +
        (match s.err with | .noError => 0 | .invalidPayloadLength => 1 | .protocolViolation => 2) * 8 +
        (match s.phase with
          | .idle => 0 | .crcRun => 1 | .frameRun => 2 | .frameOvf => 3 | .fault => 4) ∧
    (statusReg s).extractLsb' 0 3 = s.phase.code ∧ (statusReg s).extractLsb' 3 2 = s.err.code ∧
    (statusReg s).getLsbD 5 = s.resultValid ∧ (statusReg s).extractLsb' 6 2 = s.op ∧
    statusReg State.reset = 0x00

/-- R35: `RESULT` is the field `result`; for a CRC-16 operation bits 31:16 read zero and bits 15:0 are the
checksum END delivered; a read while `result_valid = 0` has no value. -/
def Obligations.ResultRegister : Prop :=
  HostReg.ofNumber 1 = some .result ∧
  (∀ s : State, s.phase = .crcRun → s.op = 0 →
    ∃ (t : State) (v : BitVec 32), exec .endOp s = .next t ∧ readReg .result t = some ⟨32, v⟩ ∧
      v.extractLsb' 0 16 = crcFinalize crc16 (s.crc.extractLsb' 0 16) ∧ v.extractLsb' 16 16 = 0) ∧
  ∀ s : State, Inv s →
    (s.resultValid = false → readReg .result s = none) ∧
    (s.resultValid = true → readReg .result s = some ⟨32, s.result⟩ ∧
      (s.op = 0 → s.result.extractLsb' 16 16 = 0 ∧ s.result.toNat < 2 ^ 16))

/-- R36: `COUNT` is the field `cnt`: the length byte of the frame just emitted, 255 after
`InvalidPayloadLength`, 0 after a CRC operation. -/
def Obligations.CountRegister : Prop :=
  HostReg.ofNumber 2 = some .count ∧
  (∀ s : State, readReg .count s = some ⟨8, s.cnt⟩ ∧ countReg s = s.cnt) ∧
  ∀ s t : State, Inv s → exec .endOp s = .next t →
    (s.phase = .frameRun → ∃ f, t.tx = s.tx ++ [f] ∧ f[6]? = some (countReg t)) ∧
    (s.phase = .frameOvf → countReg t = 255) ∧
    (s.phase = .crcRun → countReg t = 0)

/-! ### Rules about the whole machine -/

/-- R172: the phase table, every event in every phase. -/
def Obligations.PhaseTable : Prop :=
  ∀ (e : Event) (s : State),
    ∃ t, present e s = .next t ∧ t.phase = phaseTable s.phase s.cnt (columnOf e)

/-- R31, its blank cells: which events can change which field. A field that no clause lets change keeps its
value; the events still to come are never touched. -/
def Obligations.WritersOfEachField : Prop :=
  ∀ (e : Event) (s t : State), present e s = .next t →
    (t.op ≠ s.op → e = .reset ∨ IsStartWord e ∧ s.phase = .idle) ∧
    (t.crc ≠ s.crc → e = .reset ∨ IsStartWord e ∧ s.phase = .idle ∨
      IsDataWord e ∧ s.phase = .crcRun ∨ IsWordOf e .endOp ∧ s.phase = .frameRun) ∧
    (t.cnt ≠ s.cnt → e = .reset ∨ IsStartWord e ∧ s.phase = .idle ∨
      IsDataWord e ∧ s.phase = .frameRun ∧ s.cnt.toNat < 255) ∧
    (t.result ≠ s.result → e = .reset ∨ IsWordOf e .endOp ∧ s.phase = .crcRun) ∧
    (t.buf ≠ s.buf → e = .reset ∨ IsDataWord e ∧ s.phase = .frameRun ∧ s.cnt.toNat < 255) ∧
    (t.tx ≠ s.tx → IsWordOf e .endOp ∧ s.phase = .frameRun) ∧
    t.input = s.input

/-- R27: the events that write `err`, with the code each writes; every other event keeps it. -/
def Obligations.ErrorCodeWhenSet : Prop :=
  ∀ (e : Event) (s t : State), present e s = .next t →
    (e = .reset ∨ IsStartWord e ∧ s.phase = .idle ∨
      IsWordOf e .endOp ∧ (s.phase = .crcRun ∨ s.phase = .frameRun) → t.err = .noError) ∧
    (IsWordOf e .endOp ∧ s.phase = .frameOvf → t.err = .invalidPayloadLength) ∧
    (s.phase ≠ .fault → Violates e s.phase → t.err = .protocolViolation) ∧
    (s.phase = .fault ∧ e ≠ .reset ∨ IsDataWord e ∧ s.phase.busy = true → t.err = s.err)

/-- R26: `result_valid` is cleared by every accepted START, by fault entry and by reset, set by END in
`CRC_RUN` with the checksum in `result`, and kept by every other event. -/
def Obligations.ResultValidWhenSet : Prop :=
  ∀ (e : Event) (s t : State), present e s = .next t →
    (e = .reset ∨ IsStartWord e ∧ s.phase = .idle ∨ (s.phase ≠ .fault ∧ Violates e s.phase) →
      t.resultValid = false) ∧
    (IsWordOf e .endOp ∧ s.phase = .crcRun →
      t.resultValid = true ∧ t.result = checksumOf (params s.op) s.crc) ∧
    (s.phase = .fault ∧ e ≠ .reset ∨ IsDataWord e ∧ s.phase.busy = true ∨
      IsWordOf e .endOp ∧ (s.phase = .frameRun ∨ s.phase = .frameOvf) →
      t.resultValid = s.resultValid)

/-- R52: END in `FRAME_RUN` appends one whole frame; no other event changes `tx`. -/
def Obligations.OnlyEndEmitsWholeFrames : Prop :=
  ∀ (e : Event) (s t : State), Inv s → present e s = .next t →
    (IsWordOf e .endOp ∧ s.phase = .frameRun → ∃ f, IsFrame f ∧ t.tx = s.tx ++ [f]) ∧
    (¬ (IsWordOf e .endOp ∧ s.phase = .frameRun) → t.tx = s.tx)

/-- R174: every word, and every reset event, completes in its one step. -/
def Obligations.EveryEventCompletes : Prop :=
  ∀ (s : State) (e : Event) (es : List Event), s.input = e :: es →
    ∃ t, step s = .next t ∧ t.input = es ∧ present e { s with input := es } = .next t

/-- A step runs the decoded instruction (R16, R173): the next word is taken from the events and executed as
it arrives; a reserved word and the reset event likewise. -/
def Obligations.StepRunsDecodedInstruction : Prop :=
  ∀ (s : State) (es : List Event),
    (∀ (w : CmdWord) (i : Instr), s.input = .word w :: es → decode w = .instr i → i.wf = true →
      step s = exec i { s with input := es }) ∧
    (∀ (w : CmdWord) (r : Reserved), s.input = .word w :: es → decode w = .reserved r →
      step s = reservedWord r { s with input := es }) ∧
    (s.input = .reset :: es → step s = .next (resetEvent { s with input := es }))

/-- The word placed for the next fetch is the one the next step runs (the model's own, log 4). -/
def Obligations.PlacedWordRunsNext : Prop :=
  ∀ (s : State) (nbits w : Nat) (i : Instr), decodeTableWord nbits w = some i →
    step (s.withFetchWord nbits w) = exec i s

/-- R243 as the model's `step` says it (log 6): with no event left an idle block does nothing more and its
state is final; `FAULT` is a fault and a busy phase is stuck, never final. -/
def Obligations.EndOfRun : Prop :=
  ∀ s : State, s.input = [] →
    (s.phase = .idle → step s = .next s ∧ runEnd s = .final (observe s)) ∧
    (s.phase = .fault → step s = .fault .protocolViolation ∧ runEnd s = .fault) ∧
    (s.phase.busy = true → step s = .fault .operationNotEnded ∧ runEnd s = .stuck)

/-- The invariant of the reachable states is kept by every step. -/
def Obligations.StepKeepsInvariant : Prop :=
  ∀ s t : State, Inv s → step s = .next t → Inv t

/-- The invariant holds right after reset. -/
def Obligations.ResetStateMeetsInvariant : Prop := Inv State.reset

/-! ### The commands add up to the document's functions -/

/-- R177: a CRC operation, from any idle state, for any byte sequence. -/
def Obligations.CrcOperationComputesChecksum : Prop :=
  ∀ (s : State) (d : Bytes) (rest : List Event), s.phase = .idle →
    (s.input = wordsOf (operation .startCrc16 d) ++ rest →
      run (d.length + 2) s = .next { s with
        phase := .idle, op := 0, result := (computeCrc crc16 d).setWidth 32, resultValid := true,
        err := .noError, cnt := 0, crc := (crcUpdate crc16 0xFFFF d).setWidth 32, input := rest }) ∧
    (s.input = wordsOf (operation .startCrc32 d) ++ rest →
      run (d.length + 2) s = .next { s with
        phase := .idle, op := 1, result := computeCrc crc32 d, resultValid := true,
        err := .noError, cnt := 0, crc := crcUpdate crc32 0xFFFFFFFF d, input := rest })

/-- R178: a frame operation, from any idle state, for any byte sequence. -/
def Obligations.FrameOperationBuildsFrame : Prop :=
  ∀ (s : State) (v : Variant) (p : Bytes) (rest : List Event), s.phase = .idle →
    s.input = wordsOf (operation (match v with | .a => .startFrameA | .b => .startFrameB) p) ++ rest →
    ∃ t, run (p.length + 2) s = .next t ∧ t.phase = .idle ∧
      t.resultValid = false ∧ t.result = s.result ∧ t.input = rest ∧
      t.op = (match v with | .a => 2 | .b => 3) ∧
      (p.length ≤ 255 → t.err = .noError ∧ t.cnt.toNat = p.length ∧
        (∃ f, buildFrame p v = .frame f ∧ t.tx = s.tx ++ [f]) ∧
        t.crc = (computeCrc crc16 (BitVec.ofNat 8 p.length :: p)).setWidth 32) ∧
      (256 ≤ p.length → t.err = .invalidPayloadLength ∧ t.cnt = 255 ∧ t.tx = s.tx ∧
        buildFrame p v = .invalidPayloadLength)

/-- R179: complete operations back to back are the document's function calls: `tx` lists the frames of the
successful frame operations in order, and the last operation's outcome is its own. -/
def Obligations.OperationsAreIndependent : Prop :=
  ∀ (ms : List Macro) (m : Macro) (s : State) (rest : List Event), s.phase = .idle →
    s.input = wordsOf ((ms ++ [m]).flatMap Macro.expand) ++ rest →
    ∃ t, run ((ms ++ [m]).flatMap Macro.expand).length s = .next t ∧
      t.phase = .idle ∧ t.input = rest ∧ t.tx = s.tx ++ (ms ++ [m]).filterMap frameOutput ∧
      t.err = errorOutput m ∧ t.op = opOutput m ∧ t.cnt = countOutput m ∧
      resultReg t = checksumOutput m

/-- R40: the value an operation produces does not depend on the state it starts from: two idle blocks that
agree on nothing else end with the same observation, but for the frames already emitted. -/
def Obligations.NoHiddenState : Prop :=
  ∀ (m : Macro) (s₁ s₂ t₁ t₂ : State) (r₁ r₂ : List Event), s₁.phase = .idle → s₂.phase = .idle →
    s₁.input = wordsOf m.expand ++ r₁ → s₂.input = wordsOf m.expand ++ r₂ →
    run m.expand.length s₁ = .next t₁ →
    run m.expand.length s₂ = .next t₂ →
    ∃ out, t₁.tx = s₁.tx ++ out ∧ t₂.tx = s₂.tx ++ out ∧ t₁.err = t₂.err ∧ t₁.op = t₂.op ∧
      t₁.cnt = t₂.cnt ∧ resultReg t₁ = resultReg t₂

/-- R201: `InvalidPayloadLength` is the outcome of a frame operation with 256 or more DATA words, and of no
other operation. -/
def Obligations.LengthErrorExactlyWhenTooLong : Prop :=
  ∀ (m : Macro) (s : State) (rest : List Event), s.phase = .idle →
    s.input = wordsOf m.expand ++ rest →
    ∃ t, run m.expand.length s = .next t ∧
      (t.err = .invalidPayloadLength ↔ ∃ p, (m = .frameA p ∨ m = .frameB p) ∧ 256 ≤ p.length)

/-- R236 and R237: presented to an idle block, a sequence of instructions ends with the block idle exactly
when it is made of whole operations. -/
def Obligations.WellPhrasedExactlyWhenIdleAgain : Prop :=
  ∀ (is : List Instr) (s : State) (rest : List Event), s.phase = .idle → s.input = wordsOf is ++ rest →
    ∃ t, run is.length s = .next t ∧
      (t.phase = .idle ↔ wellPhrased is = true)

/-- The worked examples of R120, R121, R155 and R156: three words from reset. -/
def Obligations.WorkedExamplesFromReset : Prop :=
  (∃ t, run 3 { State.reset with input := [.word 0x000, .word 0x131, .word 0x200] } = .next t ∧
    t.result = 0x0000C782 ∧ t.resultValid = true ∧ t.err = .noError ∧ t.phase = .idle ∧
    statusReg t = 0x20) ∧
  (∃ t, run 3 { State.reset with input := [.word 0x001, .word 0x131, .word 0x200] } = .next t ∧
    t.result = 0x83DCEFB7 ∧ t.resultValid = true ∧ t.err = .noError ∧ t.phase = .idle ∧
    statusReg t = 0x60) ∧
  (∃ t, run 3 { State.reset with input := [.word 0x002, .word 0x141, .word 0x200] } = .next t ∧
    t.tx = [[0xAA, 0xAA, 0xAA, 0xAA, 0xAA, 0x7E, 0x01, 0x41, 0x76, 0xDB, 0xAA, 0xAA, 0xAA, 0xAA, 0xAA,
      0x7E]] ∧
    t.cnt = 1 ∧ t.err = .noError ∧ t.phase = .idle ∧ t.crc = 0x000076DB ∧ statusReg t = 0x80) ∧
  (∃ t, run 3 { State.reset with input := [.word 0x003, .word 0x141, .word 0x200] } = .next t ∧
    t.tx = [[0xAA, 0xAA, 0xAA, 0xAA, 0xAA, 0x7E, 0x01, 0x41, 0x76, 0xDB, 0xAA, 0xAA, 0xAA, 0xAA, 0xAA,
      0xAA]] ∧
    t.cnt = 1 ∧ t.err = .noError ∧ t.phase = .idle ∧ statusReg t = 0xC0)
end

