-- ==== Sys2Proof/Laws/Crc.lean ====
section
/-! SUPPORT. The laws of the CRC engine and of the passage between `crc` and the selected register. -/

namespace Sys2Proof.Machine

@[simp] theorem params_zero : params 0 = crc16 := rfl
@[simp] theorem params_opCrc16 : params opCrc16 = crc16 := rfl
@[simp] theorem params_opCrc32 : params opCrc32 = crc32 := rfl

/-- Every parameter set in force fits the 32-bit field `crc` (R22). -/
theorem params_width_le (op : BitVec 2) : (params op).width ≤ 32 := by
  unfold params; split <;> decide

/-- The register comes back from the field as it was put there (R22). -/
@[simp] theorem regOf_zext32 {P : CrcParams} (h : P.width ≤ 32) (r : BitVec P.width) :
    regOf P (zext32 r) = r := by
  simp [regOf, zext32, BitVec.setWidth_setWidth_of_le _ h]

@[simp] theorem crcUpdate_nil (P : CrcParams) (r : BitVec P.width) : crcUpdate P r [] = r := rfl

@[simp] theorem crcUpdate_cons (P : CrcParams) (r : BitVec P.width) (d : Byte) (ds : Bytes) :
    crcUpdate P r (d :: ds) = crcUpdate P (crcByteStep P r d) ds := rfl

theorem crcUpdate_append (P : CrcParams) (r : BitVec P.width) (ds es : Bytes) :
    crcUpdate P r (ds ++ es) = crcUpdate P (crcUpdate P r ds) es := List.foldl_append ..

/-- The DATA words of a CRC operation carry the loop of `compute_crc` (R104, R177). -/
theorem foldl_crcAfterData {P : CrcParams} (h : P.width ≤ 32) (r : BitVec P.width) (ds : Bytes) :
    ds.foldl (crcAfterData P) (zext32 r) = zext32 (crcUpdate P r ds) := by
  induction ds generalizing r with
  | nil => rfl
  | cons d ds ih => simp only [List.foldl_cons, crcUpdate_cons, crcAfterData, regOf_zext32 h, ih]

/-- A 16-bit value in the 32-bit field has a zero upper half (R119). -/
theorem zext32_upper (v : BitVec 16) : (zext32 v).extractLsb' 16 16 = 0 := by
  ext i hi; simp [zext32]

end Sys2Proof.Machine
end

