-- ==== Sys2Proof/Laws/Decode.lean ====
section
/-! SUPPORT. The fields of a command word, and the decoder on the words the encoder writes. -/

namespace Sys2Proof

@[simp] theorem kindOf_cmdWord (k : BitVec 2) (a : Byte) : kindOf (cmdWord k a) = k := by
  change (k ++ a : BitVec (2 + 8)).extractLsb' 8 2 = k
  refine BitVec.eq_of_getLsbD_eq fun i hi => ?_
  rw [BitVec.getLsbD_extractLsb', BitVec.getLsbD_append]
  simp [hi]

@[simp] theorem argOf_cmdWord (k : BitVec 2) (a : Byte) : argOf (cmdWord k a) = a := by
  change (k ++ a : BitVec (2 + 8)).extractLsb' 0 8 = a
  refine BitVec.eq_of_getLsbD_eq fun i hi => ?_
  rw [BitVec.getLsbD_extractLsb', BitVec.getLsbD_append]
  simp [hi]

/-- A word is made of its two fields (R70). -/
theorem cmdWord_fields (w : CmdWord) : cmdWord (kindOf w) (argOf w) = w := by
  change (w.extractLsb' 8 2 ++ w.extractLsb' 0 8 : BitVec (2 + 8)) = w
  refine BitVec.eq_of_getLsbD_eq fun i hi => ?_
  rw [BitVec.getLsbD_append, BitVec.getLsbD_extractLsb', BitVec.getLsbD_extractLsb']
  by_cases h : i < 8
  · simp [h]
  · simp [h, show i - 8 < 2 by omega, show 8 + (i - 8) = i by omega]

end Sys2Proof
end

