-- ==== Sys2Proof/Laws/State.lean ====
section
/-! SUPPORT. What each named update of the state writes and what it leaves: one lemma per field, by rfl. -/

namespace Sys2Proof.Machine

variable (s : State)

section takeException

@[simp] theorem takeException_violation_phase : (takeException .protocolViolation s).phase = .fault := rfl
@[simp] theorem takeException_violation_err : (takeException .protocolViolation s).err = .protocolViolation := rfl
@[simp] theorem takeException_violation_resultValid : (takeException .protocolViolation s).resultValid = false := rfl
@[simp] theorem takeException_length_phase : (takeException .invalidPayloadLength s).phase = .idle := rfl
@[simp] theorem takeException_length_err : (takeException .invalidPayloadLength s).err = .invalidPayloadLength := rfl
@[simp] theorem takeException_length_resultValid :
    (takeException .invalidPayloadLength s).resultValid = s.resultValid := rfl

variable (c : Cause)

@[simp] theorem takeException_op : (takeException c s).op = s.op := by cases c <;> rfl
@[simp] theorem takeException_crc : (takeException c s).crc = s.crc := by cases c <;> rfl
@[simp] theorem takeException_cnt : (takeException c s).cnt = s.cnt := by cases c <;> rfl
@[simp] theorem takeException_result : (takeException c s).result = s.result := by cases c <;> rfl
@[simp] theorem takeException_buf : (takeException c s).buf = s.buf := by cases c <;> rfl
@[simp] theorem takeException_tx : (takeException c s).tx = s.tx := by cases c <;> rfl
@[simp] theorem takeException_input : (takeException c s).input = s.input := by cases c <;> rfl
@[simp] theorem takeException_epoch : (takeException c s).epoch = s.epoch := by cases c <;> rfl

end takeException

section resetEvent

@[simp] theorem resetEvent_phase : (resetEvent s).phase = .idle := rfl
@[simp] theorem resetEvent_op : (resetEvent s).op = 0 := rfl
@[simp] theorem resetEvent_crc : (resetEvent s).crc = Config.freeCrc (s.epoch + 1) := rfl
@[simp] theorem resetEvent_cnt : (resetEvent s).cnt = 0 := rfl
@[simp] theorem resetEvent_result : (resetEvent s).result = Config.freeResult (s.epoch + 1) := rfl
@[simp] theorem resetEvent_resultValid : (resetEvent s).resultValid = false := rfl
@[simp] theorem resetEvent_err : (resetEvent s).err = .noError := rfl
@[simp] theorem resetEvent_buf : (resetEvent s).buf = [] := rfl
@[simp] theorem resetEvent_tx : (resetEvent s).tx = s.tx := rfl
@[simp] theorem resetEvent_input : (resetEvent s).input = s.input := rfl
@[simp] theorem resetEvent_epoch : (resetEvent s).epoch = s.epoch + 1 := rfl

end resetEvent

section bufWrite

variable (i : Nat) (v : Byte)

@[simp] theorem bufWrite_phase : (bufWrite s i v).phase = s.phase := rfl
@[simp] theorem bufWrite_op : (bufWrite s i v).op = s.op := rfl
@[simp] theorem bufWrite_crc : (bufWrite s i v).crc = s.crc := rfl
@[simp] theorem bufWrite_cnt : (bufWrite s i v).cnt = s.cnt := rfl
@[simp] theorem bufWrite_result : (bufWrite s i v).result = s.result := rfl
@[simp] theorem bufWrite_resultValid : (bufWrite s i v).resultValid = s.resultValid := rfl
@[simp] theorem bufWrite_err : (bufWrite s i v).err = s.err := rfl
@[simp] theorem bufWrite_buf : (bufWrite s i v).buf = Memory.write s.buf i v := rfl
@[simp] theorem bufWrite_tx : (bufWrite s i v).tx = s.tx := rfl
@[simp] theorem bufWrite_input : (bufWrite s i v).input = s.input := rfl
@[simp] theorem bufWrite_epoch : (bufWrite s i v).epoch = s.epoch := rfl

end bufWrite

section emit

variable (f : Bytes)

@[simp] theorem emit_phase : (emit s f).phase = s.phase := rfl
@[simp] theorem emit_op : (emit s f).op = s.op := rfl
@[simp] theorem emit_crc : (emit s f).crc = s.crc := rfl
@[simp] theorem emit_cnt : (emit s f).cnt = s.cnt := rfl
@[simp] theorem emit_result : (emit s f).result = s.result := rfl
@[simp] theorem emit_resultValid : (emit s f).resultValid = s.resultValid := rfl
@[simp] theorem emit_err : (emit s f).err = s.err := rfl
@[simp] theorem emit_buf : (emit s f).buf = s.buf := rfl
@[simp] theorem emit_tx : (emit s f).tx = s.tx ++ [f] := rfl
@[simp] theorem emit_input : (emit s f).input = s.input := rfl
@[simp] theorem emit_epoch : (emit s f).epoch = s.epoch := rfl

end emit

section endOfOperation

@[simp] theorem endCrc_phase : (endCrc s).phase = .idle := rfl
@[simp] theorem endCrc_op : (endCrc s).op = s.op := rfl
@[simp] theorem endCrc_crc : (endCrc s).crc = s.crc := rfl
@[simp] theorem endCrc_cnt : (endCrc s).cnt = s.cnt := rfl
@[simp] theorem endCrc_result : (endCrc s).result = checksumOf (params s.op) s.crc := rfl
@[simp] theorem endCrc_resultValid : (endCrc s).resultValid = true := rfl
@[simp] theorem endCrc_err : (endCrc s).err = .noError := rfl
@[simp] theorem endCrc_buf : (endCrc s).buf = s.buf := rfl
@[simp] theorem endCrc_tx : (endCrc s).tx = s.tx := rfl
@[simp] theorem endCrc_input : (endCrc s).input = s.input := rfl
@[simp] theorem endCrc_epoch : (endCrc s).epoch = s.epoch := rfl

@[simp] theorem endFrame_phase : (endFrame s).phase = .idle := rfl
@[simp] theorem endFrame_op : (endFrame s).op = s.op := rfl
@[simp] theorem endFrame_crc : (endFrame s).crc = zext32 (frameRegister s) := rfl
@[simp] theorem endFrame_cnt : (endFrame s).cnt = s.cnt := rfl
@[simp] theorem endFrame_result : (endFrame s).result = s.result := rfl
@[simp] theorem endFrame_resultValid : (endFrame s).resultValid = s.resultValid := rfl
@[simp] theorem endFrame_err : (endFrame s).err = .noError := rfl
@[simp] theorem endFrame_buf : (endFrame s).buf = s.buf := rfl
@[simp] theorem endFrame_tx : (endFrame s).tx = s.tx ++ [frameOf s] := rfl
@[simp] theorem endFrame_input : (endFrame s).input = s.input := rfl
@[simp] theorem endFrame_epoch : (endFrame s).epoch = s.epoch := rfl

end endOfOperation

/-- DATA in `FRAME_RUN` below the full count stores and counts (R170). -/
theorem storeData_of_lt (d : Byte) (h : s.cnt.toNat < maxPayload) :
    storeData d s = bufWrite { s with cnt := s.cnt + 1 } s.cnt.toNat d := if_pos h

/-- DATA in `FRAME_RUN` at the full count only records the overflow (R170). -/
theorem storeData_of_full (d : Byte) (h : ¬ s.cnt.toNat < maxPayload) :
    storeData d s = { s with phase := .frameOvf } := if_neg h

/-- The guarded increment does not wrap (R118). -/
theorem cnt_succ_toNat (h : s.cnt.toNat < maxPayload) : (s.cnt + 1).toNat = s.cnt.toNat + 1 := by
  have : s.cnt.toNat < 255 := h
  bv_omega

end Sys2Proof.Machine
end

