-- ==== Sys2Proof/Laws/Memory.lean ====
section
/-! SUPPORT. The laws of the payload buffer: read after write, and the canonical form is kept. -/

namespace Sys2Proof.Machine

@[simp] theorem Memory.read_nil (i : Nat) : Memory.read [] i = none := rfl

/-- Reading back: the byte written, and every other cell as before. -/
theorem Memory.read_write (m : Memory) (i j : Nat) (v : Byte) :
    Memory.read (Memory.write m i v) j = if j = i then some v else Memory.read m j := by
  induction m with
  | nil => simp [Memory.write, Memory.read]
  | cons c m ih =>
    obtain ⟨k, x⟩ := c
    simp only [Memory.write]
    split
    · simp [Memory.read]
    · split
      · subst_vars; by_cases h : j = k <;> simp [Memory.read, h]
      · by_cases h : j = k
        · subst h; simp [Memory.read]; intro h; omega
        · simp [Memory.read, h, ih]

@[simp] theorem Memory.read_write_same (m : Memory) (i : Nat) (v : Byte) :
    Memory.read (Memory.write m i v) i = some v := by simp [Memory.read_write]

theorem Memory.read_write_other {m : Memory} {i j : Nat} {v : Byte} (h : j ≠ i) :
    Memory.read (Memory.write m i v) j = Memory.read m j := by simp [Memory.read_write, h]

/-- A write lists the cell it writes and no other new one. -/
theorem Memory.mem_write {m : Memory} {i : Nat} {v : Byte} {c : Host.Cell}
    (h : c ∈ Memory.write m i v) : c = (i, v) ∨ c ∈ m := by
  induction m with
  | nil => simpa [Memory.write] using h
  | cons d m ih =>
    obtain ⟨k, x⟩ := d
    simp only [Memory.write] at h
    split at h
    · simpa using h
    · split at h <;> simp only [List.mem_cons] at h ⊢ <;> tauto

theorem Memory.wf_nil : Memory.wf [] := by decide

/-- Every store keeps the canonical form (R51). -/
theorem Memory.write_wf {m : Memory} {i : Nat} (v : Byte) (hm : m.wf) (hi : i < 255) :
    (Memory.write m i v).wf := by
  refine ⟨?_, fun c hc => (Memory.mem_write hc).elim (fun h => h ▸ hi) (hm.2 c)⟩
  obtain ⟨hp, -⟩ := hm
  induction m with
  | nil => simp [Memory.write]
  | cons d m ih =>
    obtain ⟨k, x⟩ := d
    obtain ⟨hk, hp⟩ := List.pairwise_cons.mp hp
    simp only [Memory.write]
    split
    · rename_i hlt
      exact List.pairwise_cons.mpr
        ⟨fun c hc => (List.mem_cons.mp hc).elim (fun h => h ▸ hlt) (fun h => lt_trans hlt (hk c h)),
          List.pairwise_cons.mpr ⟨hk, hp⟩⟩
    · split
      · rename_i _ heq
        exact List.pairwise_cons.mpr ⟨fun c hc => heq ▸ hk c hc, hp⟩
      · refine List.pairwise_cons.mpr ⟨fun c hc => ?_, ih hp⟩
        rcases Memory.mem_write hc with rfl | hc
        · show k < i; omega
        · exact hk c hc

/-- One byte of the buffer after a store (R175): the byte written, and every other one as before. -/
theorem bufRead_bufWrite (s : State) (i j : Nat) (v : Byte) :
    bufRead (bufWrite s i v) j = if j = i then v else bufRead s j := by
  simp only [bufRead, bufWrite_buf, bufWrite_epoch, Memory.read_write]
  split <;> rfl

/-- Reading the buffer depends on the buffer and the epoch alone. -/
theorem bufRead_congr {s t : State} (hb : t.buf = s.buf) (he : t.epoch = s.epoch) (i : Nat) :
    bufRead t i = bufRead s i := by simp [bufRead, hb, he]

theorem storedPayload_congr {s t : State} (hb : t.buf = s.buf) (he : t.epoch = s.epoch)
    (hc : t.cnt = s.cnt) : storedPayload t = storedPayload s := by
  simp [storedPayload, hc, funext (bufRead_congr hb he)]

@[simp] theorem storedPayload_length (s : State) : (storedPayload s).length = s.cnt.toNat := by
  simp [storedPayload]

end Sys2Proof.Machine
end

