-- ==== Sys2Proof/Laws/Exec.lean ====
section
/-! SUPPORT. What an event can do, said once: `present_happens` lists every case, with its guards, and
later proofs take cases on it instead of unfolding the meanings. -/

namespace Sys2Proof.Machine

section startOperation

variable {opc : BitVec 2} {init : BitVec 32} {run : Phase} {s : State}

theorem startOperation_idle (h : s.phase = .idle) :
    startOperation opc init run s = .next
      { s with op := opc, cnt := 0, err := .noError, resultValid := false, crc := init, phase := run } := by
  simp [startOperation, h]

theorem startOperation_busy (h : s.phase.busy = true) :
    startOperation opc init run s = .next (takeException .protocolViolation s) := by
  unfold startOperation; cases hp : s.phase <;> simp_all [Phase.busy]

theorem startOperation_fault (h : s.phase = .fault) : startOperation opc init run s = .next s := by
  simp [startOperation, h]

end startOperation

/-- The operation code a START instruction latches (R120, R121, R155, R156). -/
def startOp : Instr → BitVec 2
  | .startCrc16 => opCrc16
  | .startCrc32 => opCrc32
  | .startFrameA => opFrameA
  | .startFrameB => opFrameB
  | .data _ | .endOp => 0

/-- The value a START instruction loads into `crc`. -/
def startCrcInit : Instr → BitVec 32
  | .startCrc32 => zext32 crc32.init
  | .startCrc16 | .startFrameA | .startFrameB | .data _ | .endOp => zext32 crc16.init

/-- The busy phase a START instruction enters. -/
def startPhase : Instr → Phase
  | .startCrc16 | .startCrc32 => .crcRun
  | .startFrameA | .startFrameB | .data _ | .endOp => .frameRun

/-- The state after an accepted START. -/
def started (i : Instr) (s : State) : State :=
  { s with
    op := startOp i
    cnt := 0
    err := .noError
    resultValid := false
    crc := startCrcInit i
    phase := startPhase i }

/-- The four START instructions are one shared operation. -/
theorem exec_start {i : Instr} (h : i.isStart = true) (s : State) :
    exec i s = startOperation (startOp i) (startCrcInit i) (startPhase i) s := by
  cases i <;> first | rfl | simp [Instr.isStart] at h

/-- Every way the block can act on an event. -/
inductive Happens (s : State) : Event → State → Prop
  /-- the reset event, in every phase (R230) -/
  | reset : Happens s .reset (resetEvent s)
  /-- a word in `FAULT` is ignored (R210) -/
  | ignored {w : CmdWord} (hp : s.phase = .fault) : Happens s (.word w) s
  /-- a reserved word (R77) -/
  | reserved {w : CmdWord} {r : Reserved} (hd : decode w = .reserved r) (hp : s.phase ≠ .fault) :
      Happens s (.word w) (takeException .protocolViolation s)
  /-- an accepted START -/
  | start {w : CmdWord} {i : Instr} (hd : decode w = .instr i) (hi : i.isStart = true)
      (hp : s.phase = .idle) : Happens s (.word w) (started i s)
  /-- START while busy -/
  | startBusy {w : CmdWord} {i : Instr} (hd : decode w = .instr i) (hi : i.isStart = true)
      (hp : s.phase.busy = true) : Happens s (.word w) (takeException .protocolViolation s)
  /-- DATA while idle -/
  | dataIdle {w : CmdWord} {d : Byte} (hd : decode w = .instr (.data d)) (hp : s.phase = .idle) :
      Happens s (.word w) (takeException .protocolViolation s)
  /-- DATA in `CRC_RUN` -/
  | dataCrc {w : CmdWord} {d : Byte} (hd : decode w = .instr (.data d)) (hp : s.phase = .crcRun) :
      Happens s (.word w) { s with crc := crcAfterData (params s.op) s.crc d }
  /-- DATA in `FRAME_RUN`, below the full count -/
  | dataStore {w : CmdWord} {d : Byte} (hd : decode w = .instr (.data d)) (hp : s.phase = .frameRun)
      (hc : s.cnt.toNat < maxPayload) :
      Happens s (.word w) (bufWrite { s with cnt := s.cnt + 1 } s.cnt.toNat d)
  /-- DATA in `FRAME_RUN`, at the full count -/
  | dataOverflow {w : CmdWord} {d : Byte} (hd : decode w = .instr (.data d)) (hp : s.phase = .frameRun)
      (hc : ¬ s.cnt.toNat < maxPayload) : Happens s (.word w) { s with phase := .frameOvf }
  /-- DATA in `FRAME_OVF` is dropped -/
  | dataDropped {w : CmdWord} {d : Byte} (hd : decode w = .instr (.data d)) (hp : s.phase = .frameOvf) :
      Happens s (.word w) s
  /-- END while idle -/
  | endIdle {w : CmdWord} (hd : decode w = .instr .endOp) (hp : s.phase = .idle) :
      Happens s (.word w) (takeException .protocolViolation s)
  /-- END in `CRC_RUN` -/
  | endCrc {w : CmdWord} (hd : decode w = .instr .endOp) (hp : s.phase = .crcRun) :
      Happens s (.word w) (endCrc s)
  /-- END in `FRAME_RUN` -/
  | endFrame {w : CmdWord} (hd : decode w = .instr .endOp) (hp : s.phase = .frameRun) :
      Happens s (.word w) (endFrame s)
  /-- END in `FRAME_OVF` -/
  | endOverflow {w : CmdWord} (hd : decode w = .instr .endOp) (hp : s.phase = .frameOvf) :
      Happens s (.word w) (takeException .invalidPayloadLength s)

/-- The block answers every event with a next state, in one of the ways of `Happens` (R174, R204). -/
theorem present_happens (e : Event) (s : State) : ∃ t, present e s = .next t ∧ Happens s e t := by
  cases e with
  | reset => exact ⟨_, rfl, .reset⟩
  | word w =>
    cases hd : decode w with
    | reserved r =>
      by_cases hp : s.phase = .fault
      · exact ⟨s, by simp [present, presentWord, hd, reservedWord, hp], .ignored hp⟩
      · refine ⟨_, ?_, .reserved hd hp⟩
        cases h : s.phase <;> simp_all [present, presentWord, reservedWord]
    | instr i =>
      have hx : present (.word w) s = exec i s := by simp [present, presentWord, hd]
      rw [hx]
      by_cases hi : i.isStart = true
      · rw [exec_start hi]
        cases hp : s.phase with
        | idle => exact ⟨_, startOperation_idle hp, .start hd hi hp⟩
        | fault => exact ⟨_, startOperation_fault hp, .ignored hp⟩
        | crcRun | frameRun | frameOvf =>
          have hb : s.phase.busy = true := by rw [hp]; rfl
          exact ⟨_, startOperation_busy hb, .startBusy hd hi hb⟩
      · cases i with
        | startCrc16 | startCrc32 | startFrameA | startFrameB => exact absurd rfl hi
        | data d =>
          have hx {t : State} (h : execData d s = .next t) : exec (.data d) s = .next t := h
          cases hp : s.phase with
          | idle => exact ⟨_, hx (by simp [execData, hp]), .dataIdle hd hp⟩
          | crcRun => exact ⟨_, hx (by simp [execData, hp]), .dataCrc hd hp⟩
          | frameRun =>
            by_cases hc : s.cnt.toNat < maxPayload
            · exact ⟨_, hx (by simp [execData, hp, storeData_of_lt s d hc]), .dataStore hd hp hc⟩
            · exact ⟨_, hx (by simp [execData, hp, storeData_of_full s d hc]), .dataOverflow hd hp hc⟩
          | frameOvf => exact ⟨_, hx (by simp [execData, hp]), .dataDropped hd hp⟩
          | fault => exact ⟨_, hx (by simp [execData, hp]), .ignored hp⟩
        | endOp =>
          have hx {t : State} (h : execEnd s = .next t) : exec .endOp s = .next t := h
          cases hp : s.phase with
          | idle => exact ⟨_, hx (by simp [execEnd, hp]), .endIdle hd hp⟩
          | crcRun => exact ⟨_, hx (by simp [execEnd, hp]), .endCrc hd hp⟩
          | frameRun => exact ⟨_, hx (by simp [execEnd, hp]), .endFrame hd hp⟩
          | frameOvf => exact ⟨_, hx (by simp [execEnd, hp]), .endOverflow hd hp⟩
          | fault => exact ⟨_, hx (by simp [execEnd, hp]), .ignored hp⟩

/-- The inversion lemma: a next state comes about in one of the ways of `Happens`. -/
theorem happens_of_present {e : Event} {s t : State} (h : present e s = .next t) : Happens s e t := by
  obtain ⟨u, hu, hh⟩ := present_happens e s
  rw [h] at hu
  cases hu
  exact hh

/-- No event touches the events that are still to come. -/
theorem Happens.input_eq {e : Event} {s t : State} (h : Happens s e t) : t.input = s.input := by
  cases h <;> simp [started]

end Sys2Proof.Machine
end

