-- ==== Sys2Proof/Laws/PerInstr.lean ====
section
/-! SUPPORT. The statements made for every instruction, one lemma per constructor of `Instr`. -/

namespace Sys2Proof.Laws

/-- The encoder writes, for a well-formed instruction, a word that the opcode map's row of its mnemonic
selects, and no other row (R75). -/
def SelectsItsRow.Statement (i : Instr) : Prop := i.wf = true → selectedRows (encode i) = [i.mnemonic]

theorem SelectsItsRow.startCrc16 : SelectsItsRow.Statement .startCrc16 := fun _ => by decide
theorem SelectsItsRow.startCrc32 : SelectsItsRow.Statement .startCrc32 := fun _ => by decide
theorem SelectsItsRow.startFrameA : SelectsItsRow.Statement .startFrameA := fun _ => by decide
theorem SelectsItsRow.startFrameB : SelectsItsRow.Statement .startFrameB := fun _ => by decide
theorem SelectsItsRow.data (d : Byte) : SelectsItsRow.Statement (.data d) :=
  fun _ => by revert d; decide +kernel
theorem SelectsItsRow.endOp : SelectsItsRow.Statement .endOp := fun _ => by decide

end Sys2Proof.Laws
end

