-- ==== Sys2Proof/Laws/Step.lean ====
section
/-! SUPPORT. Steps and runs: a step presents the next event, a run of `k + 1` steps is a step and a run of
`k`, and a run over a prefix of the events carries on from where it got to. -/

namespace Sys2Proof.Machine

open Sys2Proof.Safety

/-- A step with an event left presents it. -/
theorem step_cons {s : State} {e : Event} {es : List Event} (h : s.input = e :: es) :
    step s = present e { s with input := es } := by
  simp [step, h]

theorem step_nil {s : State} (h : s.input = []) : step s = noEvent s := by simp [step, h]

@[simp] theorem run_zero (s : State) : run 0 s = .next s := rfl

/-- One step of a run, for any machine. -/
theorem run_succ_of (M : Host.Core) {s t : M.State} (k : Nat) (h : M.step s = .next t) :
    M.run (k + 1) s = M.run k t := by
  simp [Host.Core.run, h]

/-- A run of `j + k` steps whose first `j` steps answer `t` is the run of `k` steps from `t`. -/
theorem run_add_of (M : Host.Core) {s t : M.State} (j k : Nat) (h : M.run j s = .next t) :
    M.run (j + k) s = M.run k t := by
  induction j generalizing s with
  | zero => cases h; simp
  | succ j ih =>
    rw [Nat.add_right_comm]
    simp only [Host.Core.run] at h ⊢
    cases hs : M.step s with
    | next u => rw [hs] at h; exact ih h
    | fault r => rw [hs] at h; cases h
    | refused r => rw [hs] at h; cases h

/-- One step, then the rest of the run. -/
theorem run_succ {s t : State} (k : Nat) (h : step s = .next t) :
    run (k + 1) s = run k t :=
  run_succ_of Sys2Proof.core k h

/-- A run carries on from where its first `j` steps got to. -/
theorem run_add {s t : State} (j k : Nat) (h : run j s = .next t) :
    run (j + k) s = run k t :=
  run_add_of Sys2Proof.core j k h

/-- A step with an event left answers a next state in one of the ways of `Happens`. -/
theorem step_happens {s : State} {e : Event} {es : List Event} (h : s.input = e :: es) :
    ∃ t, step s = .next t ∧ Happens { s with input := es } e t :=
  step_cons h ▸ present_happens e _

end Sys2Proof.Machine
end

