-- ==== Sys2Proof/Tests/Slice0.lean ====
section
/-! SUPPORT. The model's own tests: well-formedness, decoding, one step per instruction, and one witness
per obligation that has hypotheses. Expected values are the spec's (95_test_vectors.md, the worked examples
of the rules), and the comment names the place. -/

namespace Sys2Proof.Tests

open Sys2Proof.Machine Sys2Proof.Safety

/-! ### Small states -/

/-- The outcome is a next state that passes the test. -/
def nextSuch (o : Host.Outcome State Fault Refusal) (p : State → Bool) : Bool :=
  match o with
  | .next t => p t
  | .fault _ | .refused _ => false

/-- The state with these words presented next. -/
def withWords (s : State) (ws : List CmdWord) : State := { s with input := ws.map .word }

/-- A CRC operation just started. -/
def crcState (op : BitVec 2) : State :=
  { State.reset with phase := .crcRun, op := op, crc := if op = 1 then 0xFFFFFFFF else 0x0000FFFF }

/-- A frame operation with `n` bytes 0x55 stored. -/
def frameState (op : BitVec 2) (n : Nat) : State :=
  { State.reset with
    phase := .frameRun
    op := op
    crc := 0x0000FFFF
    cnt := BitVec.ofNat 8 n
    buf := (List.range n).map (fun i => (i, 0x55#8)) }

/-- A frame operation that has received 256 bytes. -/
def overflowState (op : BitVec 2) : State := { frameState op 255 with phase := .frameOvf }

/-- A block in `FAULT`. -/
def faultState : State := { State.reset with phase := .fault, err := .protocolViolation }

/-! ### Well-formedness: what a host must not present -/

theorem test_wellPhrased_accepts_operations :
    wellPhrased [.startCrc16, .data 0x31, .endOp, .startFrameB, .endOp] = true := by decide
theorem test_wellPhrased_refuses_start_while_busy :
    wellPhrased [.startCrc16, .startCrc32, .endOp] = false := by decide
theorem test_wellPhrased_refuses_data_while_idle : wellPhrased [.data 0x41] = false := by decide
theorem test_wellPhrased_refuses_end_while_idle : wellPhrased [.endOp] = false := by decide
theorem test_wellPhrased_refuses_unended_operation :
    wellPhrased [.startFrameA, .data 0x41] = false := by decide
theorem test_wf_accepts_every_data_byte : ∀ d : Byte, Instr.wf (.data d) = true := by decide
theorem test_command_port_refuses_eleventh_bit :
    decodeTableWord 16 0x400 = none ∧ decodeTableWord 16 0x8001 = none := by decide

/-! ### Decoding: words written out from the opcode map of R75 and the reserved words of R77 -/

theorem test_decode_startCrc16 : decode 0b00_00000000#10 = .instr .startCrc16 := by decide
theorem test_decode_startCrc32 : decode 0b00_00000001#10 = .instr .startCrc32 := by decide
theorem test_decode_startFrameA : decode 0b00_00000010#10 = .instr .startFrameA := by decide
theorem test_decode_startFrameB : decode 0b00_00000011#10 = .instr .startFrameB := by decide
theorem test_decode_data :
    decode 0b01_00000000#10 = .instr (.data 0x00) ∧ decode 0b01_00110001#10 = .instr (.data 0x31) ∧
    decode 0b01_11111111#10 = .instr (.data 0xFF) := by decide
theorem test_decode_endOp : decode 0b10_00000000#10 = .instr .endOp := by decide
/-- 95_test_vectors.md P11. -/
theorem test_decode_reserved :
    decode 0x004 = .reserved .startArg ∧ decode 0x0FF = .reserved .startArg ∧
    decode 0x201 = .reserved .endArg ∧ decode 0x2FF = .reserved .endArg ∧
    decode 0x300 = .reserved .kindThree ∧ decode 0x3FF = .reserved .kindThree := by decide
theorem test_decodeTableWord :
    decodeTableWord 16 0x131 = some (.data 0x31) ∧ decodeTableWord 16 0x3FF = none ∧
    decodeTableWord 16 0x003 = some .startFrameB := by decide

/-! ### Layer F -/

/-- R101's examples. -/
theorem test_crcBitStep :
    crcBitStep crc16 0xFFFF false = 0xEFDF ∧ crcBitStep crc32 0xFFFFFFFF true = 0xFFFFFFFE := by decide
/-- R102's examples. -/
theorem test_crcByteStep :
    crcByteStep crc16 0xFFFF 0x31 = 0xC782 ∧ crcByteStep crc32 0xFFFFFFFF 0x31 = 0x1208C43E := by
  decide +kernel
/-- R103's example, and R11's. -/
theorem test_crcFinalize :
    crcFinalize crc32 0x9B63D02C = 0xCBF43926 ∧ reflect (0x01 : BitVec 8) = 0x80 := by decide +kernel
/-- 95_test_vectors.md V14. -/
theorem test_computeCrc_check_values :
    computeCrc crc16 [0x31, 0x32, 0x33, 0x34, 0x35, 0x36, 0x37, 0x38, 0x39] = 0x29B1 ∧
    computeCrc crc32 [0x31, 0x32, 0x33, 0x34, 0x35, 0x36, 0x37, 0x38, 0x39] = 0xCBF43926 := by
  decide +kernel
/-- 95_test_vectors.md F9: marker bytes are copied, variant B. -/
theorem test_buildFrame :
    buildFrame [0xAA, 0x7E] .b = .frame [0xAA, 0xAA, 0xAA, 0xAA, 0xAA, 0x7E, 0x02, 0xAA, 0x7E, 0xCF, 0x10,
      0xAA, 0xAA, 0xAA, 0xAA, 0xAA, 0xAA] := by decide +kernel

/-! ### One step of each instruction -/

/-- R120: the step from reset. -/
theorem test_startCrc16 :
    nextSuch (step (withWords State.reset [0x000])) (fun t =>
      t.phase = .crcRun && t.op = 0 && t.crc = 0x0000FFFF && statusReg t = 0x01) = true := by decide
theorem test_startCrc16_while_busy :
    nextSuch (step (withWords (crcState 1) [0x000])) (fun t =>
      t.phase = .fault && t.op = 1 && t.err = .protocolViolation) = true := by decide
/-- 95_test_vectors.md P2, step 1. -/
theorem test_startCrc32 :
    nextSuch (step (withWords State.reset [0x001])) (fun t =>
      t.crc = 0xFFFFFFFF && statusReg t = 0x41) = true := by decide
/-- 95_test_vectors.md P3, step 1. -/
theorem test_startFrameA :
    nextSuch (step (withWords State.reset [0x002])) (fun t =>
      t.crc = 0x0000FFFF && t.cnt = 0 && statusReg t = 0x82) = true := by decide
/-- 95_test_vectors.md P7, step 3: the faulting START latches nothing. -/
theorem test_startFrameA_while_busy :
    nextSuch (step (withWords (crcState 0) [0x002])) (fun t => t.crc = 0x0000FFFF && statusReg t = 0x14) =
      true := by decide
/-- 95_test_vectors.md P5, step 259: accepted after a length error, and `err` is cleared. -/
theorem test_startFrameB :
    nextSuch (step (withWords { overflowState 2 with phase := .idle, err := .invalidPayloadLength }
      [0x003])) (fun t => t.cnt = 0 && statusReg t = 0xC2) = true := by decide +kernel
/-- R170's worked examples. -/
theorem test_data :
    nextSuch (step (withWords (crcState 0) [0x131])) (fun t => t.crc = 0x0000C782 && t.cnt = 0) = true ∧
    nextSuch (step (withWords (frameState 2 3) [0x141])) (fun t =>
      Memory.read t.buf 3 = some 0x41 && t.cnt = 4 && t.crc = 0x0000FFFF) = true := by decide +kernel
/-- The 255th byte goes to `buf[254]`, the 256th only moves the phase (R170, P5 steps 256 and 257). -/
theorem test_data_boundary :
    nextSuch (step (withWords (frameState 2 254) [0x1FF])) (fun t =>
      Memory.read t.buf 254 = some 0xFF && t.cnt = 255 && t.phase = .frameRun) = true ∧
    nextSuch (step (withWords (frameState 2 255) [0x1FF])) (fun t =>
      t.buf = (frameState 2 255).buf && t.cnt = 255 && statusReg t = 0x83) = true := by decide +kernel
/-- R171: END in the two units. 95_test_vectors.md P3 step 14 and step 12. -/
theorem test_endOp :
    nextSuch (step (withWords (crcState 0) [0x200])) (fun t =>
      resultReg t = some 0x0000FFFF && statusReg t = 0x20) = true ∧
    nextSuch (step (withWords (frameState 3 0) [0x200])) (fun t =>
      t.tx = [[0xAA, 0xAA, 0xAA, 0xAA, 0xAA, 0x7E, 0x00, 0xE1, 0xF0, 0xAA, 0xAA, 0xAA, 0xAA, 0xAA, 0xAA]] &&
        t.crc = 0x0000E1F0 && statusReg t = 0xC0) = true := by decide +kernel
/-- 95_test_vectors.md P5 step 258, and P10 step 6 (END while idle). -/
theorem test_endOp_errors :
    nextSuch (step (withWords (overflowState 2) [0x200])) (fun t =>
      t.tx = [] && countReg t = 0xFF && statusReg t = 0x88) = true ∧
    nextSuch (step (withWords State.reset [0x200])) (fun t => statusReg t = 0x14) = true := by
  decide +kernel
/-- 95_test_vectors.md P9 (a) step 259, P11's last run, P6 step 2 (ignored in `FAULT`). -/
theorem test_reserved_word :
    nextSuch (step (withWords (overflowState 2) [0x3A5])) (fun t => statusReg t = 0x94) = true ∧
    nextSuch (step (withWords (crcState 1) [0x2FF])) (fun t =>
      t.crc = 0xFFFFFFFF && statusReg t = 0x54) = true ∧
    nextSuch (step (withWords faultState [0x000])) (fun t => statusReg t = 0x14) = true := by
  decide +kernel
/-- 95_test_vectors.md P8 step 4: a reset in the middle of a frame. -/
theorem test_reset_event :
    nextSuch (step { frameState 2 2 with input := [.reset] }) (fun t =>
      statusReg t = 0x00 && t.cnt = 0 && t.tx = []) = true := by decide

/-! ### States that meet the invariant -/

/-- An idle state of a run: R120's worked example, ended. -/
def crcDoneState : State :=
  { State.reset with crc := 0x0000C782, result := 0x0000C782, resultValid := true }

theorem inv_crcState (op : BitVec 2) (h : op = 0 ∨ op = 1) : Inv (crcState op) := by
  rcases h with rfl | rfl <;>
    refine ⟨?_, ?_, ?_, ?_, ?_, ?_, ?_, ?_, ?_, ?_, ?_, ?_⟩ <;>
    simp [crcState, State.reset, Memory.wf, Phase.busy, opCrc16, opCrc32]

theorem read_isSome_of_mem {m : Memory} {i : Nat} {v : Byte} (h : (i, v) ∈ m) :
    (Memory.read m i).isSome := by
  induction m with
  | nil => simp at h
  | cons c m ih =>
    obtain ⟨k, x⟩ := c
    by_cases hk : i = k
    · simp [Memory.read, hk]
    · simp only [Memory.read, if_neg hk]
      exact ih (by simpa [hk] using h)

theorem inv_frameState_of (op : BitVec 2) (n : Nat) (h : op = 2 ∨ op = 3) (hn : n ≤ 255) :
    Inv (frameState op n) := by
  refine ⟨⟨?_, ?_⟩, ?_, ?_, fun _ => ⟨h, rfl⟩, fun _ i hi => ?_, ?_, ?_, ?_, ?_, ?_, ?_, ?_⟩
  · exact List.pairwise_map.mpr List.pairwise_lt_range
  · intro c hc
    obtain ⟨k, hk, rfl⟩ := List.mem_map.mp hc
    have := List.mem_range.mp hk
    show k < 255
    omega
  rotate_left 2
  · have hi' : i < n := Nat.lt_of_lt_of_le hi (Nat.mod_le n 256)
    exact read_isSome_of_mem (List.mem_map.mpr ⟨i, List.mem_range.mpr hi', rfl⟩)
  all_goals simp [frameState, State.reset, Phase.busy]

theorem inv_frameState : Inv (frameState 2 0) ∧ Inv (frameState 3 3) ∧ Inv (frameState 2 255) :=
  ⟨inv_frameState_of _ _ (.inl rfl) (by decide), inv_frameState_of _ _ (.inr rfl) (by decide),
    inv_frameState_of _ _ (.inl rfl) (by decide)⟩

theorem inv_overflowState : Inv (overflowState 2) := by
  refine ⟨inv_frameState.2.2.bufWf, ?_, ?_, fun _ => ⟨.inl rfl, rfl⟩,
    fun _ => inv_frameState.2.2.stored (.inl rfl), fun _ => rfl, ?_, ?_, ?_, ?_, ?_, ?_⟩ <;>
    simp [overflowState, frameState, State.reset, Phase.busy]

theorem inv_faultState : Inv faultState := by
  refine ⟨?_, ?_, ?_, ?_, ?_, ?_, ?_, ?_, ?_, ?_, ?_, ?_⟩ <;>
    simp [faultState, State.reset, Memory.wf, Phase.busy]

theorem inv_crcDoneState : Inv crcDoneState := by
  refine ⟨?_, ?_, ?_, ?_, ?_, ?_, ?_, ?_, ?_, ?_, ?_, ?_⟩ <;>
    simp [crcDoneState, State.reset, Memory.wf, Phase.busy, opCrc16, opCrc32]

/-! ### Witnesses: the hypotheses of each obligation, met together -/

theorem witness_ReflectReversesBits : 31 < 32 ∧ 0 < 8 := by decide
theorem witness_CrcBitStepInIntegers : 0 < crc16.width ∧ 0 < crc32.width := by decide
theorem witness_CrcByteStepBitOrder : crc16.refin = false ∧ crc32.refin = true := by decide
theorem witness_CrcFinalizeByBits : 15 < crc16.width ∧ 31 < crc32.width := by decide
theorem witness_MaskPerByteGivesSameChecksum : 0 < crc16.width ∧ 0 < crc32.width := by decide
theorem witness_CrossCheckFormsAgree : 8 ≤ crc16.width ∧ 8 ≤ crc32.width := by decide
theorem witness_ChecksummedSequenceHasZeroResidue :
    buildFrame [0x41] .a = .frame [0xAA, 0xAA, 0xAA, 0xAA, 0xAA, 0x7E, 0x01, 0x41, 0x76, 0xDB, 0xAA, 0xAA,
      0xAA, 0xAA, 0xAA, 0x7E] := by decide +kernel
theorem witness_PayloadLengthCheck :
    (List.replicate 255 (0 : Byte)).length ≤ 255 ∧ 256 ≤ (List.replicate 256 (0 : Byte)).length :=
  ⟨List.length_replicate.le, List.length_replicate.ge⟩
theorem witness_FrameLayout :
    buildFrame [] .a = .frame [0xAA, 0xAA, 0xAA, 0xAA, 0xAA, 0x7E, 0x00, 0xE1, 0xF0, 0xAA, 0xAA, 0xAA, 0xAA,
      0xAA, 0x7E] ∧ ∃ f, buildFrame (List.replicate 255 0) .b = .frame f :=
  ⟨by decide +kernel, _, if_neg (by rw [List.length_replicate]; decide)⟩
theorem witness_VariantsDifferInLastByteOnly : (List.replicate 255 (0 : Byte)).length ≤ 255 :=
  List.length_replicate.le
theorem witness_FrameRoundTrip : (List.replicate 255 (0 : Byte)).length ≤ 255 :=
  List.length_replicate.le
theorem witness_ReservedWords :
    (decode 0x004 = .reserved .startArg ∧ faultState.phase = .fault) ∧
    (decode 0x3FF = .reserved .kindThree ∧ (overflowState 2).phase ≠ .fault) := by decide
theorem witness_DecodeEncodeInverse :
    (Instr.data 0xFF).wf = true ∧ decode 0x200 = .instr .endOp := by decide
theorem witness_StartCrcOperation :
    State.reset.phase = .idle ∧ (crcState 0).phase = .crcRun ∧ (frameState 2 255).phase = .frameRun ∧
    (overflowState 3).phase = .frameOvf ∧ faultState.phase = .fault ∧
    ((crcState 0).phase = .crcRun ∧ (crcState 0).op = 0) ∧
    ((crcState 1).phase = .crcRun ∧ (crcState 1).op = 1) := by decide
theorem witness_StartFrameOperation :
    State.reset.phase = .idle ∧ (crcState 1).phase = .crcRun ∧ faultState.phase = .fault ∧
    ((frameState 2 254).phase = .frameRun ∧ (frameState 2 254).cnt.toNat < 255) ∧
    ((frameState 3 255).phase = .frameRun ∧ (frameState 3 255).cnt = 255) ∧
    ((frameState 2 0).phase = .frameRun ∧ (frameState 2 0).op = 2) ∧
    ((frameState 3 255).phase = .frameRun ∧ (frameState 3 255).op = 3) ∧
    (overflowState 2).phase = .frameOvf := by decide
theorem witness_DataInEveryPhase :
    faultState.phase = .fault ∧ State.reset.phase = .idle ∧ (crcState 0).phase = .crcRun ∧
    ((frameState 2 254).phase = .frameRun ∧ (frameState 2 254).cnt.toNat < 255) ∧
    ((frameState 2 255).phase = .frameRun ∧ (frameState 2 255).cnt.toNat = 255) ∧
    (overflowState 2).phase = .frameOvf := by decide
theorem witness_OnlyDataStores :
    ((frameState 2 254).phase = .frameRun ∧ (frameState 2 254).cnt.toNat < 255) ∧
    (exec (.data 0x31) (frameState 2 255) = .next { frameState 2 255 with phase := .frameOvf } ∧
      ¬ ((∃ d, Instr.data 0x31 = .data d) ∧ (frameState 2 255).phase = .frameRun ∧
        (frameState 2 255).cnt.toNat < 255)) := by
  refine ⟨by decide, rfl, fun h => absurd h.2.2 (by decide)⟩
theorem witness_EndInEveryPhase :
    faultState.phase = .fault ∧ State.reset.phase = .idle ∧ (crcState 1).phase = .crcRun ∧
    (frameState 2 255).phase = .frameRun ∧ (overflowState 3).phase = .frameOvf := by decide
theorem witness_DataBytesAreStoredInOrder :
    let p : Bytes := List.replicate 255 0
    let s : State := { frameState 2 0 with input := wordsOf (p.map .data) ++ [.reset] }
    s.phase = .frameRun ∧ s.cnt = 0 ∧ p.length ≤ 255 ∧ s.input = wordsOf (p.map .data) ++ [.reset] :=
  ⟨rfl, rfl, List.length_replicate.le, rfl⟩
theorem witness_ViolationCases : NoFaultRecorded State.reset ∧ NoFaultRecorded (overflowState 2) := by
  decide
theorem witness_ViolationEntry :
    (NoFaultRecorded (crcState 0) ∧ Violates (.word 0x004) (crcState 0).phase) ∧
    (NoFaultRecorded (overflowState 2) ∧ Violates (.word 0x001) (overflowState 2).phase) ∧
    (NoFaultRecorded State.reset ∧ Violates (.word 0x141) State.reset.phase) ∧
    (NoFaultRecorded State.reset ∧ Violates (.word 0x200) State.reset.phase) :=
  ⟨⟨by decide, .inl ⟨_, .startArg, rfl, by decide⟩⟩,
    ⟨by decide, .inr (.inl ⟨⟨.startCrc32, rfl, _, rfl, by decide⟩, by decide⟩)⟩,
    ⟨by decide, .inr (.inr (.inl ⟨⟨0x41, _, rfl, by decide⟩, by decide⟩))⟩,
    ⟨by decide, .inr (.inr (.inr ⟨⟨_, rfl, by decide⟩, by decide⟩))⟩⟩
theorem witness_PayloadLengthErrorEntry :
    (overflowState 2).phase = .frameOvf ∧ Inv (overflowState 2) := ⟨rfl, inv_overflowState⟩
theorem witness_CheckPriority :
    faultState.phase = .fault ∧
    ((overflowState 2).phase ≠ .fault ∧ ∃ r, decode 0x3A5 = .reserved r) ∧
    ((overflowState 2).phase ≠ .fault ∧ decode 0x001 = .instr .startCrc32 ∧
      Instr.startCrc32.isStart = true ∧ (overflowState 2).phase.busy = true) ∧
    (State.reset.phase ≠ .fault ∧ decode 0x200 = .instr .endOp ∧ Instr.endOp.isStart = false ∧
      State.reset.phase = .idle) ∧
    (decode 0x200 = .instr .endOp ∧ (overflowState 2).phase = .frameOvf) ∧
    ((crcState 0).phase ≠ .fault ∧ decode 0x200 = .instr .endOp ∧
      ¬ ((Instr.endOp.isStart = true ∧ (crcState 0).phase.busy = true) ∨
        (Instr.endOp.isStart = false ∧ (crcState 0).phase = .idle)) ∧
      ¬ (Instr.endOp = .endOp ∧ (crcState 0).phase = .frameOvf)) := by
  refine ⟨by decide, ⟨by decide, .kindThree, by decide⟩, ?_⟩
  decide
theorem witness_FaultIsLeftOnlyByReset :
    let s := withWords faultState [0x000, 0x131, 0x200]
    s.phase = .fault ∧ s.input = [0x000, 0x131, 0x200].map Event.word ++ [] := by decide
theorem witness_StateAfterReset :
    present .reset (frameState 2 3) = .next (resetEvent (frameState 2 3)) := rfl
theorem witness_FirstOperationAfterReset :
    ({ frameState 2 3 with input := .reset :: (wordsOf (Macro.crc16 [0x31]).expand ++ []) } : State).input =
      .reset :: (wordsOf (Macro.crc16 [0x31]).expand ++ []) := rfl
theorem witness_ResultRegister :
    ((crcState 0).phase = .crcRun ∧ (crcState 0).op = 0) ∧
    (Inv State.reset ∧ State.reset.resultValid = false) ∧
    (Inv crcDoneState ∧ crcDoneState.resultValid = true ∧ crcDoneState.op = 0) := by
  refine ⟨⟨rfl, rfl⟩, ⟨?_, rfl⟩, inv_crcDoneState, rfl, rfl⟩
  refine ⟨?_, ?_, ?_, ?_, ?_, ?_, ?_, ?_, ?_, ?_, ?_, ?_⟩ <;> simp [State.reset, Memory.wf, Phase.busy]
theorem witness_CountRegister :
    (Inv (crcState 0) ∧ exec .endOp (crcState 0) = .next (endCrc (crcState 0)) ∧
      (crcState 0).phase = .crcRun) ∧
    (Inv (frameState 2 255) ∧ exec .endOp (frameState 2 255) = .next (endFrame (frameState 2 255)) ∧
      (frameState 2 255).phase = .frameRun) ∧
    (Inv (overflowState 2) ∧
      exec .endOp (overflowState 2) = .next (takeException .invalidPayloadLength (overflowState 2)) ∧
      (overflowState 2).phase = .frameOvf) :=
  ⟨⟨inv_crcState 0 (.inl rfl), rfl, rfl⟩, ⟨inv_frameState.2.2, rfl, rfl⟩, ⟨inv_overflowState, rfl, rfl⟩⟩
theorem witness_WritersOfEachField :
    present (.word 0x141) (frameState 2 254) =
      .next (bufWrite { frameState 2 254 with cnt := 255 } 254 0x41) := rfl
theorem witness_ErrorCodeWhenSet :
    (∃ t, present (.word 0x200) (crcState 0) = .next t) ∧
    (∃ t, present (.word 0x200) (overflowState 2) = .next t) ∧
    ((crcState 0).phase ≠ .fault ∧ Violates (.word 0x3FF) (crcState 0).phase ∧
      ∃ t, present (.word 0x3FF) (crcState 0) = .next t) ∧
    (faultState.phase = .fault ∧ ∃ t, present (.word 0x3FF) faultState = .next t) :=
  ⟨⟨_, rfl⟩, ⟨_, rfl⟩, ⟨by decide, .inl ⟨_, .kindThree, rfl, by decide⟩, _, rfl⟩, rfl, _, rfl⟩
theorem witness_ResultValidWhenSet :
    (∃ t, present .reset crcDoneState = .next t) ∧
    (IsWordOf (.word 0x200) .endOp ∧ (crcState 1).phase = .crcRun ∧
      ∃ t, present (.word 0x200) (crcState 1) = .next t) ∧
    (IsDataWord (.word 0x141) ∧ (crcState 1).phase.busy = true ∧
      ∃ t, present (.word 0x141) (crcState 1) = .next t) :=
  ⟨⟨_, rfl⟩, ⟨⟨_, rfl, by decide⟩, rfl, _, rfl⟩, ⟨0x41, _, rfl, by decide⟩, rfl, _, rfl⟩
theorem witness_OnlyEndEmitsWholeFrames :
    (Inv (frameState 2 255) ∧ IsWordOf (.word 0x200) .endOp ∧ (frameState 2 255).phase = .frameRun ∧
      present (.word 0x200) (frameState 2 255) = .next (endFrame (frameState 2 255))) ∧
    (Inv (overflowState 2) ∧ ¬ (IsWordOf (.word 0x200) .endOp ∧ (overflowState 2).phase = .frameRun) ∧
      ∃ t, present (.word 0x200) (overflowState 2) = .next t) :=
  ⟨⟨inv_frameState.2.2, ⟨_, rfl, by decide⟩, rfl, rfl⟩,
    inv_overflowState, fun h => absurd h.2 (by decide), _, rfl⟩
theorem witness_EveryEventCompletes :
    (withWords State.reset [0x3FF, 0x200]).input = .word 0x3FF :: [.word 0x200] := rfl
theorem witness_StepRunsDecodedInstruction :
    ((withWords State.reset [0x131]).input = .word 0x131 :: [] ∧
      decode 0x131 = .instr (.data 0x31) ∧ (Instr.data 0x31).wf = true) ∧
    ((withWords State.reset [0x3FF]).input = .word 0x3FF :: [] ∧ decode 0x3FF = .reserved .kindThree) ∧
    ({ State.reset with input := [.reset] } : State).input = .reset :: [] := by decide
theorem witness_PlacedWordRunsNext :
    decodeTableWord 16 0x1FF = some (.data 0xFF) ∧ decodeTableWord 16 0x000 = some .startCrc16 := by decide
theorem witness_EndOfRun :
    (State.reset.input = [] ∧ State.reset.phase = .idle) ∧
    (faultState.input = [] ∧ faultState.phase = .fault) ∧
    ((overflowState 2).input = [] ∧ (overflowState 2).phase.busy = true) := by decide
theorem witness_StepKeepsInvariant :
    Inv (withWords (frameState 2 255) [0x131]) ∧
    ∃ t, step (withWords (frameState 2 255) [0x131]) = .next t :=
  ⟨⟨inv_frameState.2.2.1, inv_frameState.2.2.2, inv_frameState.2.2.3, inv_frameState.2.2.4,
    inv_frameState.2.2.5, inv_frameState.2.2.6, inv_frameState.2.2.7, inv_frameState.2.2.8,
    inv_frameState.2.2.9, inv_frameState.2.2.10, inv_frameState.2.2.11, inv_frameState.2.2.12⟩, _, rfl⟩
theorem witness_CrcOperationComputesChecksum :
    State.reset.phase = .idle ∧
    ({ State.reset with input := wordsOf (operation .startCrc16 []) ++ [.reset] } : State).input =
      wordsOf (operation .startCrc16 []) ++ [.reset] ∧
    ({ State.reset with input := wordsOf (operation .startCrc32 [0x31]) ++ [] } : State).input =
      wordsOf (operation .startCrc32 [0x31]) ++ [] := ⟨rfl, rfl, rfl⟩
theorem witness_FrameOperationBuildsFrame :
    State.reset.phase = .idle ∧
    (∀ v : Variant, ∀ p ∈ [List.replicate 255 (0 : Byte), List.replicate 256 0],
      (withWords State.reset ((operation (match v with | .a => .startFrameA | .b => .startFrameB) p).map
        encode)).input =
      wordsOf (operation (match v with | .a => .startFrameA | .b => .startFrameB) p) ++ []) := by
  refine ⟨rfl, fun v p _ => ?_⟩
  simp [withWords, wordsOf]
theorem witness_OperationsAreIndependent :
    State.reset.phase = .idle ∧
    ({ State.reset with
      input := wordsOf (([Macro.frameA [0x41]] ++ [Macro.crc32 []]).flatMap Macro.expand) ++ [] } : State).input =
      wordsOf (([Macro.frameA [0x41]] ++ [Macro.crc32 []]).flatMap Macro.expand) ++ [] := ⟨rfl, rfl⟩
theorem witness_NoHiddenState :
    let m := Macro.crc16 [0x31]
    let s₁ : State := { State.reset with input := wordsOf m.expand ++ [] }
    let s₂ : State := { crcDoneState with cnt := 7, tx := [[0x00]], input := wordsOf m.expand ++ [.reset] }
    s₁.phase = .idle ∧ s₂.phase = .idle ∧ s₁.input = wordsOf m.expand ++ [] ∧
      s₂.input = wordsOf m.expand ++ [.reset] ∧
      (∃ t, run m.expand.length s₁ = .next t) ∧ (∃ t, run m.expand.length s₂ = .next t) :=
  ⟨rfl, rfl, rfl, rfl, ⟨_, rfl⟩, ⟨_, rfl⟩⟩
theorem witness_LengthErrorExactlyWhenTooLong :
    State.reset.phase = .idle ∧
    ({ State.reset with input := wordsOf (Macro.frameB [0x41]).expand ++ [] } : State).input =
      wordsOf (Macro.frameB [0x41]).expand ++ [] := ⟨rfl, rfl⟩
theorem witness_WellPhrasedExactlyWhenIdleAgain :
    State.reset.phase = .idle ∧
    ({ State.reset with input := wordsOf [.startCrc16, .endOp] ++ [.reset] } : State).input =
      wordsOf [.startCrc16, .endOp] ++ [.reset] := ⟨rfl, rfl⟩

end Sys2Proof.Tests
end

section
/-! ### Reflection (R11) -/

namespace Sys2Proof.Machine

theorem getLsbD_reflect {n i : Nat} (v : BitVec n) (hi : i < n) :
    (reflect v).getLsbD i = v.getLsbD (n - 1 - i) := by
  rw [reflect, BitVec.getLsbD_reverse, BitVec.getMsbD_eq_getLsbD, decide_eq_true hi, Bool.true_and]

@[simp] theorem reflect_reflect {n : Nat} (v : BitVec n) : reflect (reflect v) = v :=
  BitVec.reverse_reverse_eq

/-- Settles O1, bit by bit and by the involution of `reflect`. -/
theorem reflectReversesBits : Obligations.ReflectReversesBits :=
  fun _ v => ⟨fun _ hi => getLsbD_reflect v hi, reflect_reflect v⟩

end Sys2Proof.Machine
end

section
/-! ### What each instruction does in each phase (R120, R121, R155, R156, R170, R171, R206, R210) -/

namespace Sys2Proof.Machine

section exec

variable {s : State} {d : Byte}

theorem exec_start_idle {i : Instr} (hi : i.isStart = true) (hp : s.phase = .idle) :
    exec i s = .next (started i s) :=
  (exec_start hi s).trans (startOperation_idle hp)

theorem exec_start_busy {i : Instr} (hi : i.isStart = true) (hp : s.phase.busy = true) :
    exec i s = .next (takeException .protocolViolation s) :=
  (exec_start hi s).trans (startOperation_busy hp)

theorem exec_data_idle (hp : s.phase = .idle) :
    exec (.data d) s = .next (takeException .protocolViolation s) := by
  simp [exec, execData, hp]

theorem exec_data_crcRun (hp : s.phase = .crcRun) :
    exec (.data d) s = .next { s with crc := crcAfterData (params s.op) s.crc d } := by
  simp [exec, execData, hp]

theorem exec_data_store (hp : s.phase = .frameRun) (hc : s.cnt.toNat < maxPayload) :
    exec (.data d) s = .next (bufWrite { s with cnt := s.cnt + 1 } s.cnt.toNat d) := by
  simp [exec, execData, hp, storeData_of_lt s d hc]

theorem exec_data_overflow (hp : s.phase = .frameRun) (hc : ¬ s.cnt.toNat < maxPayload) :
    exec (.data d) s = .next { s with phase := .frameOvf } := by
  simp [exec, execData, hp, storeData_of_full s d hc]

theorem exec_data_frameOvf (hp : s.phase = .frameOvf) : exec (.data d) s = .next s := by
  simp [exec, execData, hp]

theorem exec_end_idle (hp : s.phase = .idle) :
    exec .endOp s = .next (takeException .protocolViolation s) := by
  simp [exec, execEnd, hp]

theorem exec_end_crcRun (hp : s.phase = .crcRun) : exec .endOp s = .next (endCrc s) := by
  simp [exec, execEnd, hp]

theorem exec_end_frameRun (hp : s.phase = .frameRun) : exec .endOp s = .next (endFrame s) := by
  simp [exec, execEnd, hp]

theorem exec_end_frameOvf (hp : s.phase = .frameOvf) :
    exec .endOp s = .next (takeException .invalidPayloadLength s) := by
  simp [exec, execEnd, hp]

/-- In `FAULT` every instruction is ignored (R210). -/
theorem exec_fault (i : Instr) (hp : s.phase = .fault) : exec i s = .next s := by
  cases i with
  | data d => simp [exec, execData, hp]
  | endOp => simp [exec, execEnd, hp]
  | startCrc16 | startCrc32 | startFrameA | startFrameB =>
    exact (exec_start rfl s).trans (startOperation_fault hp)

end exec

/-- In `FAULT` a reserved word is ignored (R210). -/
theorem reservedWord_fault (r : Reserved) {s : State} (hp : s.phase = .fault) :
    reservedWord r s = .next s := by
  simp [reservedWord, hp]

/-- In every other phase a reserved word is a `ProtocolViolation` (R77). -/
theorem reservedWord_violation (r : Reserved) {s : State} (hp : s.phase ≠ .fault) :
    reservedWord r s = .next (takeException .protocolViolation s) := by
  cases h : s.phase <;> simp_all [reservedWord]

theorem present_instr {w : CmdWord} {i : Instr} (hd : decode w = .instr i) (s : State) :
    present (.word w) s = exec i s := by
  simp [present, presentWord, hd]

theorem present_reserved {w : CmdWord} {r : Reserved} (hd : decode w = .reserved r) (s : State) :
    present (.word w) s = reservedWord r s := by
  simp [present, presentWord, hd]

theorem present_fault (w : CmdWord) {s : State} (hp : s.phase = .fault) :
    present (.word w) s = .next s := by
  cases hd : decode w with
  | instr i => rw [present_instr hd, exec_fault i hp]
  | reserved r => rw [present_reserved hd, reservedWord_fault r hp]

/-- The converse of `happens_of_present`: what `Happens` lists is what the block answers. -/
theorem Happens.present_eq {s t : State} {e : Event} (h : Happens s e t) : present e s = .next t := by
  cases h with
  | reset => rfl
  | ignored hp => exact present_fault _ hp
  | reserved hd hp => rw [present_reserved hd, reservedWord_violation _ hp]
  | start hd hi hp => rw [present_instr hd, exec_start_idle hi hp]
  | startBusy hd hi hp => rw [present_instr hd, exec_start_busy hi hp]
  | dataIdle hd hp => rw [present_instr hd, exec_data_idle hp]
  | dataCrc hd hp => rw [present_instr hd, exec_data_crcRun hp]
  | dataStore hd hp hc => rw [present_instr hd, exec_data_store hp hc]
  | dataOverflow hd hp hc => rw [present_instr hd, exec_data_overflow hp hc]
  | dataDropped hd hp => rw [present_instr hd, exec_data_frameOvf hp]
  | endIdle hd hp => rw [present_instr hd, exec_end_idle hp]
  | endCrc hd hp => rw [present_instr hd, exec_end_crcRun hp]
  | endFrame hd hp => rw [present_instr hd, exec_end_frameRun hp]
  | endOverflow hd hp => rw [present_instr hd, exec_end_frameOvf hp]

/-- An event has one outcome: the state the block answers is the one `Happens` names. -/
theorem Happens.eq_of_present {s t u : State} {e : Event} (h : Happens s e u)
    (ht : present e s = .next t) : t = u :=
  Host.Outcome.next.inj (ht.symm.trans h.present_eq)

end Sys2Proof.Machine
end

section
/-! ### The events that write `err` and `result_valid` (R26, R27) -/

namespace Sys2Proof.Machine

open Sys2Proof.Safety

/-- The cases (a) to (d) of R202 are the entry to `FAULT`. -/
theorem happens_of_violates {e : Event} {s : State} (hp : s.phase ≠ .fault)
    (hv : Violates e s.phase) : Happens s e (takeException .protocolViolation s) := by
  rcases hv with ⟨w, r, rfl, hd⟩ | ⟨⟨i, hi, w, rfl, hd⟩, hb⟩ | ⟨⟨d, w, rfl, hd⟩, hp⟩ | ⟨⟨w, rfl, hd⟩, hp⟩
  · exact .reserved hd hp
  · exact .startBusy hd hi hb
  · exact .dataIdle hd hp
  · exact .endIdle hd hp

/-- The reset event is the only one that a block in `FAULT` does not ignore (R210). -/
theorem happens_of_fault {e : Event} {s : State} (hp : s.phase = .fault) (he : e ≠ .reset) :
    Happens s e s := by
  cases e with
  | reset => exact absurd rfl he
  | word w => exact .ignored hp

/-- DATA while busy reports nothing: it leaves `err` and `result_valid` (R170). -/
theorem err_resultValid_of_data_busy {e : Event} {s t : State} (he : IsDataWord e)
    (hb : s.phase.busy = true) (h : present e s = .next t) :
    t.err = s.err ∧ t.resultValid = s.resultValid := by
  obtain ⟨d, w, rfl, hd⟩ := he
  cases hp : s.phase with
  | idle | fault => simp [hp, Phase.busy] at hb
  | crcRun => rw [(Happens.dataCrc hd hp).eq_of_present h]; exact ⟨rfl, rfl⟩
  | frameOvf => rw [(Happens.dataDropped hd hp).eq_of_present h]; exact ⟨rfl, rfl⟩
  | frameRun =>
    by_cases hc : s.cnt.toNat < maxPayload
    · rw [(Happens.dataStore hd hp hc).eq_of_present h]; exact ⟨rfl, rfl⟩
    · rw [(Happens.dataOverflow hd hp hc).eq_of_present h]; exact ⟨rfl, rfl⟩

/-- Settles O36, one group of writers of `err` after the other. -/
theorem errorCodeWhenSet : Obligations.ErrorCodeWhenSet := by
  intro e s t h
  refine ⟨?_, ?_, fun hp hv => ?_, ?_⟩
  · rintro (rfl | ⟨⟨i, hi, w, rfl, hd⟩, hp⟩ | ⟨⟨w, rfl, hd⟩, hp | hp⟩)
    · rw [Happens.reset.eq_of_present h]; rfl
    · rw [(Happens.start hd hi hp).eq_of_present h]; rfl
    · rw [(Happens.endCrc hd hp).eq_of_present h]; rfl
    · rw [(Happens.endFrame hd hp).eq_of_present h]; rfl
  · rintro ⟨⟨w, rfl, hd⟩, hp⟩
    rw [(Happens.endOverflow hd hp).eq_of_present h]; rfl
  · rw [(happens_of_violates hp hv).eq_of_present h]; rfl
  · rintro (⟨hp, he⟩ | ⟨he, hb⟩)
    · rw [(happens_of_fault hp he).eq_of_present h]
    · exact (err_resultValid_of_data_busy he hb h).1

/-- Settles O37, one group of writers of `result_valid` after the other. -/
theorem resultValidWhenSet : Obligations.ResultValidWhenSet := by
  intro e s t h
  refine ⟨?_, ?_, ?_⟩
  · rintro (rfl | ⟨⟨i, hi, w, rfl, hd⟩, hp⟩ | ⟨hp, hv⟩)
    · rw [Happens.reset.eq_of_present h]; rfl
    · rw [(Happens.start hd hi hp).eq_of_present h]; rfl
    · rw [(happens_of_violates hp hv).eq_of_present h]; rfl
  · rintro ⟨⟨w, rfl, hd⟩, hp⟩
    rw [(Happens.endCrc hd hp).eq_of_present h]; exact ⟨rfl, rfl⟩
  · rintro (⟨hp, he⟩ | ⟨he, hb⟩ | ⟨⟨w, rfl, hd⟩, hp | hp⟩)
    · rw [(happens_of_fault hp he).eq_of_present h]
    · exact (err_resultValid_of_data_busy he hb h).2
    · rw [(Happens.endFrame hd hp).eq_of_present h]; rfl
    · rw [(Happens.endOverflow hd hp).eq_of_present h]; rfl

end Sys2Proof.Machine
end

section
/-! ### The registers the host reads (R34 to R36, R41) -/

namespace Sys2Proof.Machine

open Sys2Proof.Safety

/-- Concatenation places the upper part above the lower one. -/
theorem toNat_append_eq_add {m n : Nat} (x : BitVec m) (y : BitVec n) :
    (x ++ y).toNat = x.toNat * 2 ^ n + y.toNat := by
  rw [BitVec.toNat_append, ← Nat.shiftLeft_add_eq_or_of_lt y.isLt, Nat.shiftLeft_eq]

theorem statusReg_toNat (s : State) :
    (statusReg s).toNat =
      s.op.toNat * 64 + s.resultValid.toNat * 32 + s.err.code.toNat * 8 + s.phase.code.toNat := by
  have h : (statusReg s).toNat = s.op.toNat * 2 ^ 6 +
      (s.resultValid.toNat * 2 ^ 5 + (s.err.code.toNat * 2 ^ 3 + s.phase.code.toNat)) := by
    simp only [statusReg, toNat_append_eq_add, BitVec.toNat_ofBool]
  omega

@[simp] theorem statusReg_phase (s : State) : (statusReg s).extractLsb' 0 3 = s.phase.code :=
  (BitVec.extractLsb'_append_eq_of_add_le (w := 6) (by decide)).trans <|
    (BitVec.extractLsb'_append_eq_of_add_le (w := 5) (by decide)).trans
      BitVec.extractLsb'_append_eq_right

@[simp] theorem statusReg_err (s : State) : (statusReg s).extractLsb' 3 2 = s.err.code :=
  (BitVec.extractLsb'_append_eq_of_add_le (w := 6) (by decide)).trans <|
    (BitVec.extractLsb'_append_eq_of_add_le (w := 5) (by decide)).trans
      BitVec.extractLsb'_append_eq_left

theorem statusReg_resultValid (s : State) : (statusReg s).getLsbD 5 = s.resultValid :=
  BitVec.getLsbD_append.trans <| BitVec.getLsbD_append.trans (by simp)

@[simp] theorem statusReg_op (s : State) : (statusReg s).extractLsb' 6 2 = s.op :=
  BitVec.extractLsb'_append_eq_left

/-- With nothing in progress and nothing to report, `STATUS` reads 0x00 (R34). -/
theorem statusReg_eq_zero {s : State} (hp : s.phase = .idle) (ho : s.op = 0)
    (hv : s.resultValid = false) (he : s.err = .noError) : statusReg s = 0x00 := by
  rw [statusReg, hp, ho, hv, he]
  rfl

theorem resultReg_of_invalid {s : State} (h : s.resultValid = false) : resultReg s = none := by
  simp [resultReg, h]

theorem resultReg_of_valid {s : State} (h : s.resultValid = true) : resultReg s = some s.result := by
  simp [resultReg, h]

/-- The byte before the payload of an emitted frame is the count (R143, R171). -/
theorem frameOf_length_byte (s : State) : (frameOf s)[6]? = some s.cnt := rfl

/-- The checksum of a CRC-16 operation is the finalised lower half of `crc` (R103, R171). -/
theorem checksumOf_crc16_lower (c : BitVec 32) :
    (checksumOf crc16 c).extractLsb' 0 16 = crcFinalize crc16 (c.extractLsb' 0 16) := by
  rw [← BitVec.setWidth_eq_extractLsb' (by decide), ← BitVec.setWidth_eq_extractLsb' (by decide)]
  exact BitVec.setWidth_setWidth_of_le _ (by decide)

/-- A value with a zero upper half is below `2 ^ 16`. -/
theorem toNat_lt_of_upper_zero {v : BitVec 32} (h : v.extractLsb' 16 16 = 0) : v.toNat < 2 ^ 16 := by
  have h' := congrArg BitVec.toNat h
  simp only [BitVec.extractLsb'_toNat, Nat.shiftRight_eq_div_pow] at h'
  have hv := v.isLt
  change _ = 0 at h'
  omega

/-- Settles O29: both states hold the table's values, field by field. -/
theorem stateAfterReset : Obligations.StateAfterReset := by
  refine ⟨fun s t h => ?_, rfl, rfl, rfl, rfl, rfl, rfl, rfl, rfl, rfl⟩
  rw [Happens.reset.eq_of_present h]
  exact ⟨rfl, rfl, rfl, rfl, rfl, rfl, statusReg_eq_zero rfl rfl rfl rfl, rfl, rfl⟩

/-- Settles O31, from the place of each field in the concatenation. -/
theorem statusRegisterFields : Obligations.StatusRegisterFields := by
  refine ⟨rfl, fun s => ⟨rfl, ?_, statusReg_phase s, statusReg_err s, statusReg_resultValid s,
    statusReg_op s, rfl⟩⟩
  rw [statusReg_toNat]
  cases s.err <;> cases s.phase <;> rfl

/-- Settles O32: END leaves the finalised register in the lower half, and `Inv` keeps the upper half zero. -/
theorem resultRegister : Obligations.ResultRegister := by
  refine ⟨rfl, fun s hp hop => ?_, fun s hs => ⟨fun hv => ?_, fun hv => ⟨?_, fun hop => ?_⟩⟩⟩
  · refine ⟨endCrc s, checksumOf crc16 s.crc, exec_end_crcRun hp, ?_, ?_, zext32_upper _⟩
    · rw [readReg, resultReg_of_valid (endCrc_resultValid s), endCrc_result, hop]; rfl
    · exact checksumOf_crc16_lower s.crc
  · simp [readReg, resultReg_of_invalid hv]
  · simp [readReg, resultReg_of_valid hv]
  · have hu := hs.resultUpper hv hop
    exact ⟨hu, toNat_lt_of_upper_zero hu⟩

/-- Settles O33, from what END does in each busy phase and the count `Inv` gives there. -/
theorem countRegister : Obligations.CountRegister := by
  refine ⟨rfl, fun s => ⟨rfl, rfl⟩, fun s t hs h => ⟨fun hp => ?_, fun hp => ?_, fun hp => ?_⟩⟩
  · cases h.symm.trans (exec_end_frameRun hp)
    exact ⟨frameOf s, rfl, frameOf_length_byte s⟩
  · cases h.symm.trans (exec_end_frameOvf hp)
    exact hs.overflow hp
  · cases h.symm.trans (exec_end_crcRun hp)
    exact (hs.crcRun hp).2

end Sys2Proof.Machine
end

section
/-! ### Presenting instructions: the words the encoder writes, and the run over one operation (R16, R71) -/

namespace Sys2Proof

/-- The decoder reads back what the encoder wrote (R70, R75). -/
@[simp] theorem decode_encode (i : Instr) : decode (encode i) = .instr i := by
  cases i with
  | data d => simp [encode, decode]
  | startCrc16 | startCrc32 | startFrameA | startFrameB | endOp => decide

theorem wordsOf_append (is js : List Instr) : wordsOf (is ++ js) = wordsOf is ++ wordsOf js :=
  List.map_append

theorem operation_length (i : Instr) (d : Bytes) : (operation i d).length = d.length + 2 := by
  simp [operation]

end Sys2Proof

namespace Sys2Proof.Machine

open Sys2Proof.Safety

/-- A step over presented instructions executes the first of them (R16, R173). -/
theorem step_wordsOf_cons {s : State} {i : Instr} {is : List Instr} {rest : List Event}
    (h : s.input = wordsOf (i :: is) ++ rest) :
    step s = exec i { s with input := wordsOf is ++ rest } :=
  (step_cons h).trans (present_instr (decode_encode i) _)

/-- A whole operation is its START, the run over its DATA words, and its END. -/
theorem run_operation {s t : State} {i : Instr} {d : Bytes} {rest : List Event} (v : State)
    (hi : i.isStart = true) (hp : s.phase = .idle) (hin : s.input = wordsOf (operation i d) ++ rest)
    (hdata : ∀ es, run d.length { started i s with input := wordsOf (d.map .data) ++ es } =
      .next { v with input := es })
    (hend : exec .endOp { v with input := rest } = .next t) :
    run (operation i d).length s = .next t := by
  have hstart : step s = .next
      { started i s with input := wordsOf (d.map .data) ++ (wordsOf [.endOp] ++ rest) } := by
    rw [operation] at hin
    rw [step_wordsOf_cons hin, wordsOf_append, List.append_assoc]
    exact exec_start_idle hi hp
  have hlast : step { v with input := wordsOf [.endOp] ++ rest } = .next t :=
    (step_wordsOf_cons rfl).trans hend
  rw [operation_length, run_succ _ hstart, run_add d.length 1 (hdata _), run_succ 0 hlast, run_zero]

end Sys2Proof.Machine
end

section
/-! ### A CRC operation (R81, R82, R177) -/

namespace Sys2Proof.Machine

open Sys2Proof.Safety

/-- In `CRC_RUN` every DATA word advances the register, and nothing else happens (R170). -/
theorem run_data_crcRun {s : State} {d : Bytes} {rest : List Event} (hp : s.phase = .crcRun)
    (hin : s.input = wordsOf (d.map .data) ++ rest) :
    run d.length s = .next
      { s with crc := d.foldl (crcAfterData (params s.op)) s.crc, input := rest } := by
  induction d generalizing s with
  | nil => subst hin; rfl
  | cons x d ih =>
    rw [List.length_cons, run_succ _ ((step_wordsOf_cons hin).trans (exec_data_crcRun hp))]
    exact ih hp rfl

/-- The end of a CRC operation, from any idle state. -/
theorem run_crcOperation {s : State} {i : Instr} {d : Bytes} {rest : List Event}
    (hi : i.isStart = true) (hrun : startPhase i = .crcRun) (hp : s.phase = .idle)
    (hin : s.input = wordsOf (operation i d) ++ rest) :
    run (operation i d).length s = .next (endCrc
      { started i s with
        crc := d.foldl (crcAfterData (params (startOp i))) (startCrcInit i), input := rest }) :=
  run_operation
    { started i s with crc := d.foldl (crcAfterData (params (startOp i))) (startCrcInit i) }
    hi hp hin (fun _ => run_data_crcRun hrun rfl) (exec_end_crcRun hrun)

/-- What END delivers is the document's checksum (R104, R177). -/
theorem checksumOf_foldl_crcAfterData {P : CrcParams} (h : P.width ≤ 32) (d : Bytes) :
    checksumOf P (d.foldl (crcAfterData P) (zext32 P.init)) = zext32 (computeCrc P d) := by
  rw [foldl_crcAfterData h, checksumOf, regOf_zext32 h, computeCrc]

end Sys2Proof.Machine
end

section
/-! ### A frame operation (R83, R84, R178) -/

namespace Sys2Proof.Machine

open Sys2Proof.Safety

/-- The buffer after storing a byte sequence from index `i` on (R62). -/
def Memory.writeAll : Memory → Nat → Bytes → Memory
  | m, _, [] => m
  | m, i, d :: p => Memory.writeAll (m.write i d) (i + 1) p

theorem Memory.read_writeAll_below {m : Memory} {i j : Nat} (p : Bytes) (h : j < i) :
    (m.writeAll i p).read j = m.read j := by
  induction p generalizing m i with
  | nil => rfl
  | cons d p ih => exact (ih (by omega)).trans (Memory.read_write_other (by omega))

theorem Memory.read_writeAll_inside (m : Memory) (i : Nat) {k : Nat} {p : Bytes}
    (h : k < p.length) : (m.writeAll i p).read (i + k) = some p[k] := by
  induction p generalizing m i k with
  | nil => exact absurd h (Nat.not_lt_zero k)
  | cons d p ih =>
    cases k with
    | zero => exact (Memory.read_writeAll_below p (by omega)).trans (Memory.read_write_same m i d)
    | succ k =>
      have hk := ih (m.write i d) (i + 1) (Nat.lt_of_succ_lt_succ h)
      rwa [Nat.add_right_comm i 1 k] at hk

/-- A sequence stored from index 0 is the stored payload (R62, R176). -/
theorem storedPayload_of_writeAll {s : State} {m : Memory} {p : Bytes}
    (hb : s.buf = m.writeAll 0 p) (hc : s.cnt.toNat = p.length) : storedPayload s = p := by
  refine List.ext_getElem (by simp [hc]) fun k _ hk => ?_
  have hr := m.read_writeAll_inside 0 hk
  rw [Nat.zero_add] at hr
  simp [storedPayload, bufRead, hb, hr]

/-- In `FRAME_RUN` the DATA words are stored in order and counted, as long as they fit (R62, R170). -/
theorem run_data_frameRun {s : State} {p : Bytes} {rest : List Event} (hp : s.phase = .frameRun)
    (hfit : s.cnt.toNat + p.length ≤ maxPayload) (hin : s.input = wordsOf (p.map .data) ++ rest) :
    run p.length s = .next
      { s with
        buf := s.buf.writeAll s.cnt.toNat p
        cnt := s.cnt + BitVec.ofNat 8 p.length
        input := rest } := by
  induction p generalizing s with
  | nil => subst hin; simp [Memory.writeAll]
  | cons x p ih =>
    rw [List.length_cons] at hfit ⊢
    have hlt : s.cnt.toNat < maxPayload := by omega
    have hsucc := cnt_succ_toNat s hlt
    have hcnt : s.cnt + 1 + BitVec.ofNat 8 p.length = s.cnt + BitVec.ofNat 8 (p.length + 1) := by
      bv_omega
    have hstep : step s = .next (bufWrite
        { s with cnt := s.cnt + 1, input := wordsOf (p.map .data) ++ rest } s.cnt.toNat x) :=
      (step_wordsOf_cons hin).trans (exec_data_store hp hlt)
    have hrest : (s.cnt + 1).toNat + p.length ≤ maxPayload := by omega
    rw [run_succ _ hstep]
    refine Eq.trans (ih hp hrest rfl) ?_
    simp only [bufWrite, hsucc, hcnt, Memory.writeAll]

/-- In `FRAME_OVF` the DATA words are dropped (R170). -/
theorem run_data_frameOvf {s : State} {p : Bytes} {rest : List Event} (hp : s.phase = .frameOvf)
    (hin : s.input = wordsOf (p.map .data) ++ rest) :
    run p.length s = .next { s with input := rest } := by
  induction p generalizing s with
  | nil => subst hin; rfl
  | cons x p ih =>
    rw [List.length_cons, run_succ _ ((step_wordsOf_cons hin).trans (exec_data_frameOvf hp))]
    exact ih hp rfl

/-- At the full count one more DATA word or several only record the overflow (R170). -/
theorem run_data_full {s : State} {p : Bytes} {rest : List Event} (hp : s.phase = .frameRun)
    (hfull : s.cnt = 255) (hne : p ≠ []) (hin : s.input = wordsOf (p.map .data) ++ rest) :
    run p.length s = .next { s with phase := .frameOvf, input := rest } := by
  cases p with
  | nil => exact absurd rfl hne
  | cons x p =>
    have hc : ¬ s.cnt.toNat < maxPayload := by rw [hfull]; decide
    have hstep : step s = .next
        { s with phase := .frameOvf, input := wordsOf (p.map .data) ++ rest } :=
      (step_wordsOf_cons hin).trans (exec_data_overflow hp hc)
    rw [List.length_cons, run_succ _ hstep]
    exact run_data_frameOvf rfl rfl

/-- More DATA words than fit: the first 255 are stored, the others dropped (R170). -/
theorem run_data_tooLong {s : State} {p : Bytes} {rest : List Event} (hp : s.phase = .frameRun)
    (hc : s.cnt = 0) (hlong : maxPayload < p.length) (hin : s.input = wordsOf (p.map .data) ++ rest) :
    run p.length s = .next
      { s with
        buf := s.buf.writeAll 0 (p.take maxPayload)
        cnt := 255
        phase := .frameOvf
        input := rest } := by
  have hlen : (p.take maxPayload).length = maxPayload := List.length_take_of_le hlong.le
  have hsplit : p.length = (p.take maxPayload).length + (p.drop maxPayload).length := by
    rw [hlen, List.length_drop]; omega
  have hne : p.drop maxPayload ≠ [] := by simpa using hlong
  have hin' : s.input = wordsOf ((p.take maxPayload).map .data) ++
      (wordsOf ((p.drop maxPayload).map .data) ++ rest) := by
    rw [hin, ← List.append_assoc, ← wordsOf_append, ← List.map_append, List.take_append_drop]
  have hfirst := run_data_frameRun hp (by simp [hc, hlen]) hin'
  have hcnt : s.cnt + BitVec.ofNat 8 (p.take maxPayload).length = 255 := by rw [hc, hlen]; rfl
  rw [hcnt, hc] at hfirst
  rw [hsplit, run_add _ _ hfirst]
  exact run_data_full hp rfl hne rfl

variable {s : State} {i : Instr} {p : Bytes} {rest : List Event}

/-- The end of a frame operation whose payload fits, from any idle state. -/
theorem run_frameOperation_fits (hi : i.isStart = true) (hrun : startPhase i = .frameRun)
    (hp : s.phase = .idle) (hfit : p.length ≤ maxPayload)
    (hin : s.input = wordsOf (operation i p) ++ rest) :
    run (operation i p).length s = .next (endFrame
      { started i s with
        buf := s.buf.writeAll 0 p, cnt := BitVec.ofNat 8 p.length, input := rest }) := by
  refine run_operation
    { started i s with buf := s.buf.writeAll 0 p, cnt := BitVec.ofNat 8 p.length }
    hi hp hin (fun es => ?_) (exec_end_frameRun hrun)
  rw [run_data_frameRun hrun (by simpa [started] using hfit) rfl]
  simp [started]

/-- The end of a frame operation whose payload is too long, from any idle state. -/
theorem run_frameOperation_tooLong (hi : i.isStart = true) (hrun : startPhase i = .frameRun)
    (hp : s.phase = .idle) (hlong : maxPayload < p.length)
    (hin : s.input = wordsOf (operation i p) ++ rest) :
    run (operation i p).length s = .next (takeException .invalidPayloadLength
      { started i s with
        buf := s.buf.writeAll 0 (p.take maxPayload), cnt := 255, phase := .frameOvf, input := rest }) :=
  run_operation
    { started i s with
      buf := s.buf.writeAll 0 (p.take maxPayload), cnt := 255, phase := .frameOvf }
    hi hp hin (fun _ => run_data_tooLong hrun rfl hlong rfl) (exec_end_frameOvf rfl)

theorem buildFrame_of_fits (v : Variant) (h : p.length ≤ maxPayload) :
    buildFrame p v =
      .frame (assembleFrame (lengthPrefixed p) (computeCrc crc16 (lengthPrefixed p)) v) :=
  if_neg (Nat.not_lt.mpr h)

theorem buildFrame_of_tooLong (v : Variant) (h : maxPayload < p.length) :
    buildFrame p v = .invalidPayloadLength := if_pos h

/-- The frame END emits for a stored payload is the document's (R140, R178). -/
theorem buildFrame_eq_frameOf (hcrc : s.crc = zext32 crc16.init) (hpay : storedPayload s = p)
    (hcnt : s.cnt = BitVec.ofNat 8 p.length) (hfit : p.length ≤ maxPayload) :
    buildFrame p (variantOf s.op) = .frame (frameOf s) := by
  rw [buildFrame_of_fits _ hfit, frameOf, frameRegister, hcrc, regOf_zext32 (by decide), hpay, hcnt]
  rfl

end Sys2Proof.Machine
end

section
/-! ### A whole operation from any idle state (R40, R177, R178) -/

namespace Sys2Proof.Machine

open Sys2Proof.Safety

/-- The START instruction of a frame of the variant (R155, R156). -/
def frameStart : Variant → Instr
  | .a => .startFrameA
  | .b => .startFrameB

/-- The operation, as the host asks for it, that builds a frame of the variant (R83, R84). -/
def frameMacro : Variant → Bytes → Macro
  | .a => .frameA
  | .b => .frameB

section frameMacro

variable (v : Variant) (p : Bytes)

theorem frameStart_isStart : (frameStart v).isStart = true := by cases v <;> rfl
theorem frameStart_phase : startPhase (frameStart v) = .frameRun := by cases v <;> rfl
theorem frameStart_crcInit : startCrcInit (frameStart v) = zext32 crc16.init := by cases v <;> rfl
theorem frameStart_variant : variantOf (startOp (frameStart v)) = v := by cases v <;> rfl

theorem frameMacro_expand : (frameMacro v p).expand = operation (frameStart v) p := by cases v <;> rfl
theorem frameMacro_op : opOutput (frameMacro v p) = startOp (frameStart v) := by cases v <;> rfl
theorem frameMacro_checksum : checksumOutput (frameMacro v p) = none := by cases v <;> rfl
theorem frameMacro_count :
    countOutput (frameMacro v p) = BitVec.ofNat 8 (min p.length maxPayload) := by cases v <;> rfl
theorem frameMacro_error :
    errorOutput (frameMacro v p) =
      if p.length > maxPayload then .invalidPayloadLength else .noError := by cases v <;> rfl

variable {v p}

theorem frameMacro_frame_of_built {f : Bytes} (h : buildFrame p v = .frame f) :
    frameOutput (frameMacro v p) = some f := by
  cases v <;> simp [frameOutput, frameMacro, h]

theorem frameMacro_frame_of_refused (h : buildFrame p v = .invalidPayloadLength) :
    frameOutput (frameMacro v p) = none := by
  cases v <;> simp [frameOutput, frameMacro, h]

end frameMacro

/-- The state `t` reports what the document's functions give for `m`, and the block is idle again: the
outcome of a whole operation begun in `s` (R177, R178). -/
structure Completes (m : Macro) (s t : State) : Prop where
  phase : t.phase = .idle
  tx : t.tx = s.tx ++ (frameOutput m).toList
  err : t.err = errorOutput m
  op : t.op = opOutput m
  cnt : t.cnt = countOutput m
  result : resultReg t = checksumOutput m

section run

variable {s : State} {rest : List Event}

theorem run_crc16 {d : Bytes} (hp : s.phase = .idle)
    (hin : s.input = wordsOf (Macro.crc16 d).expand ++ rest) :
    ∃ t, run (Macro.crc16 d).expand.length s = .next t ∧ t.input = rest ∧
      Completes (.crc16 d) s t := by
  refine ⟨_, run_crcOperation rfl rfl hp hin, rfl, rfl, (List.append_nil _).symm, rfl, rfl, rfl, ?_⟩
  exact congrArg some (checksumOf_foldl_crcAfterData (P := crc16) (by decide) d)

theorem run_crc32 {d : Bytes} (hp : s.phase = .idle)
    (hin : s.input = wordsOf (Macro.crc32 d).expand ++ rest) :
    ∃ t, run (Macro.crc32 d).expand.length s = .next t ∧ t.input = rest ∧
      Completes (.crc32 d) s t := by
  refine ⟨_, run_crcOperation rfl rfl hp hin, rfl, rfl, (List.append_nil _).symm, rfl, rfl, rfl, ?_⟩
  exact congrArg some ((checksumOf_foldl_crcAfterData (P := crc32) (by decide) d).trans
    (BitVec.setWidth_eq _))

theorem run_frameMacro {v : Variant} {p : Bytes} (hp : s.phase = .idle)
    (hin : s.input = wordsOf (frameMacro v p).expand ++ rest) :
    ∃ t, run (frameMacro v p).expand.length s = .next t ∧ t.input = rest ∧
      Completes (frameMacro v p) s t := by
  have hi := frameStart_isStart v
  have hrun := frameStart_phase v
  rw [frameMacro_expand] at hin ⊢
  rcases Nat.lt_or_ge maxPayload p.length with hlong | hfit
  · refine ⟨_, run_frameOperation_tooLong hi hrun hp hlong hin, rfl, rfl, ?_, ?_, ?_, ?_, ?_⟩
    · rw [frameMacro_frame_of_refused (buildFrame_of_tooLong v hlong)]
      exact (List.append_nil _).symm
    · rw [frameMacro_error, if_pos hlong]; rfl
    · rw [frameMacro_op]; rfl
    · rw [frameMacro_count, Nat.min_eq_right hlong.le]; rfl
    · rw [frameMacro_checksum]; rfl
  · refine ⟨_, run_frameOperation_fits hi hrun hp hfit hin, rfl, rfl, ?_, ?_, ?_, ?_, ?_⟩
    · have hcnt : (BitVec.ofNat 8 p.length).toNat = p.length :=
        Nat.mod_eq_of_lt (Nat.lt_succ_of_le hfit)
      have hbuilt := buildFrame_eq_frameOf
        (s := { started (frameStart v) s with
          buf := s.buf.writeAll 0 p, cnt := BitVec.ofNat 8 p.length, input := rest })
        (frameStart_crcInit v) (storedPayload_of_writeAll rfl hcnt) rfl hfit
      rw [frameMacro_frame_of_built ((congrArg _ (frameStart_variant v).symm).trans hbuilt)]
      rfl
    · rw [frameMacro_error, if_neg (Nat.not_lt.mpr hfit)]; rfl
    · rw [frameMacro_op]; rfl
    · rw [frameMacro_count, Nat.min_eq_left hfit]; rfl
    · rw [frameMacro_checksum]; rfl

/-- Every operation of R81 to R84 completes from every idle state, with the document's outcome (R177, R178). -/
theorem run_expand (m : Macro) (hp : s.phase = .idle) (hin : s.input = wordsOf m.expand ++ rest) :
    ∃ t, run m.expand.length s = .next t ∧ t.input = rest ∧ Completes m s t := by
  cases m with
  | crc16 d => exact run_crc16 hp hin
  | crc32 d => exact run_crc32 hp hin
  | frameA p => exact run_frameMacro (v := .a) hp hin
  | frameB p => exact run_frameMacro (v := .b) hp hin

/-- A run over a whole operation that answers `t` completes it. -/
theorem completes_of_run {m : Macro} {t : State} (hp : s.phase = .idle)
    (hin : s.input = wordsOf m.expand ++ rest) (h : run m.expand.length s = .next t) :
    Completes m s t := by
  obtain ⟨u, hu, -, hc⟩ := run_expand m hp hin
  cases h.symm.trans hu
  exact hc

end run

/-- Settles O48: both runs end with the outcome of the document's functions, which see its words alone. -/
theorem noHiddenState : Obligations.NoHiddenState := by
  intro m s₁ s₂ t₁ t₂ r₁ r₂ hp₁ hp₂ hin₁ hin₂ hrun₁ hrun₂
  have h₁ := completes_of_run hp₁ hin₁ hrun₁
  have h₂ := completes_of_run hp₂ hin₂ hrun₂
  exact ⟨(frameOutput m).toList, h₁.tx, h₂.tx, h₁.err.trans h₂.err.symm, h₁.op.trans h₂.op.symm,
    h₁.cnt.trans h₂.cnt.symm, h₁.result.trans h₂.result.symm⟩

end Sys2Proof.Machine
end

section
/-! ### The writer of `tx` (R30, R52) -/

namespace Sys2Proof.Machine

open Sys2Proof.Safety

/-- In `FRAME_RUN` the register stands as START loaded it and `cnt` counts the stored payload, so END emits
the document's frame for that payload (R171, R178). -/
theorem isFrame_frameOf {s : State} (hinv : Inv s) (hp : s.phase = .frameRun) : IsFrame (frameOf s) := by
  have hcrc : s.crc = zext32 crc16.init := (hinv.frame (.inl hp)).2
  have hcnt : s.cnt = BitVec.ofNat 8 (storedPayload s).length := by simp
  have hfit : (storedPayload s).length ≤ maxPayload := by
    rw [storedPayload_length]; exact Nat.le_of_lt_succ s.cnt.isLt
  exact ⟨storedPayload s, variantOf s.op, buildFrame_eq_frameOf hcrc rfl hcnt hfit⟩

/-- Every way the block can act but END in `FRAME_RUN` leaves `tx` as it was (R52). -/
theorem Happens.tx_eq {e : Event} {s t : State} (h : Happens s e t)
    (hne : ¬ (IsWordOf e .endOp ∧ s.phase = .frameRun)) : t.tx = s.tx := by
  cases h with
  | endFrame hd hp => exact absurd ⟨⟨_, rfl, hd⟩, hp⟩ hne
  | reserved | startBusy | dataIdle | endIdle | endOverflow => exact takeException_tx ..
  | reset | ignored | start | dataCrc | dataStore | dataOverflow | dataDropped | endCrc => rfl

/-- Settles O38: END in `FRAME_RUN` emits `frameOf`, a built frame under the invariant. -/
theorem onlyEndEmitsWholeFrames : Obligations.OnlyEndEmitsWholeFrames := by
  intro e s t hinv h
  refine ⟨?_, (happens_of_present h).tx_eq⟩
  rintro ⟨⟨w, rfl, hd⟩, hp⟩
  rw [(Happens.endFrame hd hp).eq_of_present h]
  exact ⟨frameOf s, isFrame_frameOf hinv hp, endFrame_tx ..⟩

end Sys2Proof.Machine
end

section
/-! ### The encodings and the reserved words: every command word is one or the other (R75, R77, R78) -/

namespace Sys2Proof

open Sys2Proof.Machine (toNat_append_eq_add)

/-- The words of each row of R77: its first word, and how many follow from there. -/
def Reserved.words : Reserved → List Nat
  | .startArg => List.range' 0x004 252
  | .endArg => List.range' 0x201 255
  | .kindThree => List.range' 0x300 256

@[simp] theorem mem_words_startArg {n : Nat} : n ∈ Reserved.startArg.words ↔ 0x004 ≤ n ∧ n < 0x100 :=
  List.mem_range'_1

@[simp] theorem mem_words_endArg {n : Nat} : n ∈ Reserved.endArg.words ↔ 0x201 ≤ n ∧ n < 0x300 :=
  List.mem_range'_1

@[simp] theorem mem_words_kindThree {n : Nat} : n ∈ Reserved.kindThree.words ↔ 0x300 ≤ n ∧ n < 0x400 :=
  List.mem_range'_1

/-- `w = kind * 256 + arg` (R70). -/
theorem cmdWord_toNat (k : BitVec 2) (a : Byte) : (cmdWord k a).toNat = k.toNat * 256 + a.toNat :=
  toNat_append_eq_add k a

theorem decodeStart_reserved {a : Byte} (h : 4 ≤ a.toNat) : decodeStart a = .reserved .startArg := by
  refine if_neg fun hz => ?_
  have hz' := congrArg BitVec.toNat hz
  simp only [BitVec.extractLsb'_toNat, Nat.shiftRight_eq_div_pow] at hz'
  have ha := a.isLt
  change _ = 0 at hz'
  omega

theorem kind_cases : ∀ k : BitVec 2, k = 0 ∨ k = 1 ∨ k = 2 ∨ k = 3 := by decide

theorem opcode_cases {a : Byte} (h : a.toNat < 4) : a = 0 ∨ a = 1 ∨ a = 2 ∨ a = 3 := by
  simp only [← BitVec.toNat_inj, BitVec.ofNat_eq_ofNat, BitVec.toNat_ofNat]
  omega

/-- Decoding is total (R78): a word is the encoding of an instruction, or it stands in a row of R77 and the
decoder names that row. -/
theorem encoded_or_reserved (w : CmdWord) :
    (∃ i, encode i = w) ∨ ∃ r, decode w = .reserved r ∧ w.toNat ∈ r.words := by
  rw [← cmdWord_fields w]
  generalize kindOf w = k, argOf w = a
  have ha := a.isLt
  obtain rfl | rfl | rfl | rfl := kind_cases k
  · by_cases h : a.toNat < 4
    · obtain rfl | rfl | rfl | rfl := opcode_cases h
      exacts [.inl ⟨.startCrc16, rfl⟩, .inl ⟨.startCrc32, rfl⟩, .inl ⟨.startFrameA, rfl⟩,
        .inl ⟨.startFrameB, rfl⟩]
    · refine .inr ⟨.startArg, ?_, ?_⟩
      · simp [decode, decodeStart_reserved (Nat.le_of_not_lt h)]
      · simp [cmdWord_toNat]; omega
  · exact .inl ⟨.data a, rfl⟩
  · by_cases h : a = 0
    · exact .inl ⟨.endOp, by rw [h]; rfl⟩
    · have h' : a.toNat ≠ 0 := fun hz => h (BitVec.eq_of_toNat_eq hz)
      refine .inr ⟨.endArg, ?_, ?_⟩
      · simpa [decode] using h
      · simp [cmdWord_toNat]; omega
  · refine .inr ⟨.kindThree, ?_, ?_⟩
    · simp [decode]
    · simp [cmdWord_toNat]; omega

/-- What decodes to an instruction is that instruction's own word (R75). -/
theorem encode_of_decode {w : CmdWord} {i : Instr} (h : decode w = .instr i) : encode i = w := by
  obtain ⟨j, rfl⟩ | ⟨r, hr, -⟩ := encoded_or_reserved w
  · cases (decode_encode j).symm.trans h; rfl
  · cases hr.symm.trans h

/-- The words of START with a zero `arg[7:2]`, of DATA and of END stand in no row of R77. -/
theorem notMem_words {n : Nat} (h : n < 0x004 ∨ 0x100 ≤ n ∧ n < 0x201) (r : Reserved) : n ∉ r.words := by
  cases r <;> simp <;> omega

theorem encode_notMem_words (i : Instr) (r : Reserved) : (encode i).toNat ∉ r.words := by
  refine notMem_words ?_ r
  cases i with
  | data d =>
    have hd := d.isLt
    have hw : (encode (.data d)).toNat = 1 * 256 + d.toNat := cmdWord_toNat 1 d
    omega
  | startCrc16 | startCrc32 | startFrameA | startFrameB | endOp => decide

/-- The rows of R77 share no word. -/
theorem eq_of_mem_words {n : Nat} {r r' : Reserved} (h : n ∈ r.words) (h' : n ∈ r'.words) : r = r' := by
  cases r <;> cases r' <;> simp at h h' ⊢ <;> omega

/-- The decoder rejects exactly the words of R77, each by its row. -/
theorem decode_eq_reserved_iff {w : CmdWord} {r : Reserved} :
    decode w = .reserved r ↔ w.toNat ∈ r.words := by
  obtain ⟨i, rfl⟩ | ⟨r', hd, hm⟩ := encoded_or_reserved w
  · simp [encode_notMem_words]
  · rw [hd, Decoded.reserved.injEq]
    exact ⟨fun h => h ▸ hm, eq_of_mem_words hm⟩

end Sys2Proof
end

section
/-! ### The reserved words: their number, and what presenting one does (R77) -/

namespace Sys2Proof

/-- The decoder rejects the word of number `n`. -/
def isRejected (n : Nat) : Bool :=
  match decode (BitVec.ofNat 10 n) with
  | .instr _ => false
  | .reserved _ => true

theorem isRejected_iff {n : Nat} (hn : n < 1024) : isRejected n = true ↔ ∃ r : Reserved, n ∈ r.words := by
  have hw : (BitVec.ofNat 10 n).toNat = n := Nat.mod_eq_of_lt hn
  calc isRejected n = true ↔ ∃ r, decode (BitVec.ofNat 10 n) = .reserved r := by
        cases hd : decode (BitVec.ofNat 10 n) <;> simp [isRejected, hd]
    _ ↔ ∃ r : Reserved, n ∈ r.words := by simp only [decode_eq_reserved_iff, hw]

/-- The 1024 words in order: START, reserved, DATA and END, and twice reserved. -/
theorem range_eq_blocks : List.range 1024 =
    List.range' 0x000 4 ++ (Reserved.startArg.words ++ (List.range' 0x100 257 ++
      (Reserved.endArg.words ++ Reserved.kindThree.words))) := by
  rw [Reserved.words, Reserved.words, Reserved.words, List.range'_append_1 (s := 0x201),
    List.range'_append_1 (s := 0x100), List.range'_append_1 (s := 0x004),
    List.range'_append_1 (s := 0x000), List.range_eq_range']

theorem countP_words (r : Reserved) : r.words.countP isRejected = r.words.length := by
  refine List.countP_eq_length.mpr fun n hn => (isRejected_iff ?_).mpr ⟨r, hn⟩
  cases r <;> simp at hn <;> omega

theorem countP_encoded {l : List Nat} (h : ∀ n ∈ l, n < 0x004 ∨ 0x100 ≤ n ∧ n < 0x201) :
    l.countP isRejected = 0 := by
  refine List.countP_eq_zero.mpr fun n hn hd => ?_
  have hlt : n < 1024 := by have := h n hn; omega
  obtain ⟨r, hr⟩ := (isRejected_iff hlt).mp hd
  exact notMem_words (h n hn) r hr

/-- 763 words are reserved: 252 + 255 + 256 (R77). -/
theorem countP_reserved : (List.range 1024).countP isRejected = 763 := by
  have hstart : ∀ n ∈ List.range' 0x000 4, n < 0x004 ∨ 0x100 ≤ n ∧ n < 0x201 := by
    simp only [List.mem_range'_1]; omega
  have hdata : ∀ n ∈ List.range' 0x100 257, n < 0x004 ∨ 0x100 ≤ n ∧ n < 0x201 := by
    simp only [List.mem_range'_1]; omega
  rw [range_eq_blocks]
  simp only [List.countP_append, countP_words, countP_encoded hstart, countP_encoded hdata]
  simp only [Reserved.words, List.length_range']

end Sys2Proof

namespace Sys2Proof.Machine

theorem present_reserved_violation {w : CmdWord} {r : Reserved} {s : State} (hd : decode w = .reserved r)
    (hp : s.phase ≠ .fault) : present (.word w) s = .next (takeException .protocolViolation s) :=
  (present_reserved hd s).trans (reservedWord_violation r hp)

/-- Settles O15, from the rows of R77 as ranges and the order of the 1024 words. -/
theorem reservedWords : Obligations.ReservedWords := by
  refine ⟨fun w => ?_, ?_, fun w r s hd =>
    ⟨fun hp => present_fault w hp, present_reserved_violation hd⟩⟩
  · have hw := w.isLt
    simp only [decode_eq_reserved_iff, mem_words_startArg, mem_words_endArg, mem_words_kindThree]
    omega
  · exact List.countP_eq_length_filter.symm.trans countP_reserved

end Sys2Proof.Machine
end

section
/-! ### The opcode map (R75) -/

namespace Sys2Proof

/-- `AND` acts on the two fields apart (R70). -/
theorem cmdWord_and (k k' : BitVec 2) (a a' : Byte) :
    cmdWord k a &&& cmdWord k' a' = cmdWord (k &&& k') (a &&& a') :=
  BitVec.and_append

theorem and_fullMask (w : CmdWord) : w &&& 0x3FF#10 = w :=
  BitVec.and_allOnes

/-- The mask of DATA keeps the kind and clears the byte. -/
theorem and_dataMask (w : CmdWord) : w &&& 0x300#10 = cmdWord (kindOf w) 0 := by
  calc w &&& 0x300#10 = cmdWord (kindOf w) (argOf w) &&& cmdWord 3 0 := by rw [cmdWord_fields]; rfl
    _ = cmdWord (kindOf w &&& 3) (argOf w &&& 0) := cmdWord_and ..
    _ = cmdWord (kindOf w) 0 := congrArg₂ _ BitVec.and_allOnes BitVec.and_zero

/-- A row selects encodings only: a full mask selects the row's own word, and the mask of DATA every word
of that kind. -/
theorem encoded_of_row {w : CmdWord} {row : String × CmdWord × CmdWord} (hrow : row ∈ opcodeMap)
    (h : w &&& row.2.2 = row.2.1) : ∃ i, encode i = w := by
  simp only [opcodeMap, List.mem_cons, List.not_mem_nil, or_false] at hrow
  obtain rfl | rfl | rfl | rfl | rfl | rfl := hrow
  · exact ⟨.startCrc16, h.symm.trans (and_fullMask w)⟩
  · exact ⟨.startCrc32, h.symm.trans (and_fullMask w)⟩
  · exact ⟨.startFrameA, h.symm.trans (and_fullMask w)⟩
  · exact ⟨.startFrameB, h.symm.trans (and_fullMask w)⟩
  · have hk : kindOf w = 1 := by
      rw [← kindOf_cmdWord (kindOf w) 0, ← and_dataMask]
      exact congrArg kindOf h
    exact ⟨.data (argOf w), by rw [encode, ← hk, cmdWord_fields]⟩
  · exact ⟨.endOp, h.symm.trans (and_fullMask w)⟩

theorem selectedRows_of_reserved {w : CmdWord} {r : Reserved} (hd : decode w = .reserved r) :
    selectedRows w = [] := by
  refine List.map_eq_nil_iff.mpr (List.filter_eq_nil_iff.mpr fun row hrow h => ?_)
  obtain ⟨i, rfl⟩ := encoded_of_row hrow (of_decide_eq_true h)
  cases (decode_encode i).symm.trans hd

/-- The word of an instruction selects that instruction's row and no other. -/
theorem selectedRows_encode (i : Instr) : selectedRows (encode i) = [i.mnemonic] := by
  cases i with
  | data d =>
    have hne : ∀ x : CmdWord, kindOf x ≠ 1#2 → cmdWord 1#2 d ≠ x := by
      rintro _ hx rfl
      exact hx (kindOf_cmdWord _ _)
    have hdata : cmdWord 1#2 0#8 = 0x100#10 := rfl
    simp [selectedRows, opcodeMap, encode, Instr.mnemonic, and_fullMask, and_dataMask, hdata,
      hne 0x000#10 (by decide), hne 0x001#10 (by decide), hne 0x002#10 (by decide),
      hne 0x003#10 (by decide), hne 0x200#10 (by decide)]
  | startCrc16 | startCrc32 | startFrameA | startFrameB | endOp => decide

/-- Settles O14: an encoding selects its own row, and a reserved word none. -/
theorem oneRowOrNoneMatches : Obligations.OneRowOrNoneMatches := by
  intro w
  cases hd : decode w with
  | instr i => rw [← encode_of_decode hd]; exact selectedRows_encode i
  | reserved r => exact selectedRows_of_reserved hd

end Sys2Proof
end

section
/-! ### The bit step: what is shifted out and what is fed in (R101, R107) -/

namespace Sys2Proof.Machine

variable {P : CrcParams}

theorem crcShiftLeft_eq (P : CrcParams) (r : BitVec P.width) :
    crcShiftLeft P r = (r <<< 1) ^^^ (if r.msb then P.poly else 0) := by
  rw [crcShiftLeft, BitVec.msb_eq_getLsbD_last]
  split
  · rfl
  · exact BitVec.xor_zero.symm

/-- The bit step is one shift of the register with the input bit XORed into its top bit (R101). -/
theorem crcBitStep_eq_crcShiftLeft (P : CrcParams) (r : BitVec P.width) (b : Bool) :
    crcBitStep P r b =
      crcShiftLeft P (r ^^^ ((BitVec.ofBool b).setWidth P.width <<< (P.width - 1))) := rfl

theorem msb_topBit {w : Nat} (hw : 0 < w) (b : Bool) :
    ((BitVec.ofBool b).setWidth w <<< (w - 1)).msb = b := by
  rw [BitVec.msb_shiftLeft, BitVec.getMsbD_setWidth, Nat.sub_add_cancel hw, Nat.sub_self]
  simp

theorem topBit_shiftLeft_one {w : Nat} (hw : 0 < w) (v : BitVec w) : v <<< (w - 1) <<< 1 = 0#w := by
  rw [← BitVec.shiftLeft_add]
  exact BitVec.shiftLeft_eq_zero (by omega)

/-- The polynomial is subtracted when the register's top bit and the input bit differ (R101). -/
theorem crcBitStep_eq (hw : 0 < P.width) (r : BitVec P.width) (b : Bool) :
    crcBitStep P r b = (r <<< 1) ^^^ (if (r.msb ^^ b) then P.poly else 0) := by
  rw [crcBitStep_eq_crcShiftLeft, crcShiftLeft_eq, BitVec.shiftLeft_xor_distrib,
    topBit_shiftLeft_one hw, BitVec.msb_xor, msb_topBit hw, BitVec.xor_zero]

/-- What waits in `x` below its top bit passes through a shift untouched; the top bit enters the step. -/
theorem crcShiftLeft_xor (hw : 0 < P.width) (r x : BitVec P.width) :
    crcShiftLeft P (r ^^^ x) = crcBitStep P r x.msb ^^^ (x <<< 1) := by
  rw [crcShiftLeft_eq, crcBitStep_eq hw, BitVec.msb_xor, BitVec.shiftLeft_xor_distrib,
    BitVec.xor_assoc, BitVec.xor_assoc, BitVec.xor_comm (x <<< 1)]

/-- Shifting with a whole word XORed in at once, or with its bits fed in one per step, top bit first,
differ only by the part of the word that is not yet shifted out. -/
theorem foldl_crcShiftLeft_xor (hw : 0 < P.width) (r x : BitVec P.width) (n : Nat) :
    (List.range n).foldl (fun r _ => crcShiftLeft P r) (r ^^^ x) =
      (List.range n).foldl (fun r k => crcBitStep P r (x.getMsbD k)) r ^^^ (x <<< n) := by
  induction n with
  | zero => simp
  | succ n ih =>
    rw [List.range_succ, List.foldl_append, List.foldl_append, ih]
    simp only [List.foldl_cons, List.foldl_nil]
    rw [crcShiftLeft_xor hw, BitVec.msb_shiftLeft, ← BitVec.shiftLeft_add]

theorem ofNat_shiftLeft (w n k : Nat) : BitVec.ofNat w (n <<< k) = BitVec.ofNat w n <<< k :=
  BitVec.eq_of_toNat_eq (by simp [Nat.shiftLeft_eq])

/-- The low `width` bits of the unmasked register evolve as the masked register does (R107). -/
theorem ofNat_crcBitStepUnmasked (hw : 0 < P.width) (n : Nat) (b : Bool) :
    BitVec.ofNat P.width (crcBitStepUnmasked P n b) = crcBitStep P (BitVec.ofNat P.width n) b := by
  have htop : BitVec.ofNat P.width (n ^^^ (b.toNat <<< (P.width - 1))) =
      BitVec.ofNat P.width n ^^^ ((BitVec.ofBool b).setWidth P.width <<< (P.width - 1)) := by
    rw [BitVec.ofNat_xor, ofNat_shiftLeft, ← BitVec.toNat_ofBool, BitVec.ofNat_toNat]
  have htest : (n ^^^ (b.toNat <<< (P.width - 1))).testBit (P.width - 1) =
      (BitVec.ofNat P.width (n ^^^ (b.toNat <<< (P.width - 1)))).getLsbD (P.width - 1) := by
    rw [BitVec.getLsbD_ofNat, decide_eq_true (Nat.sub_one_lt_of_lt hw), Bool.true_and]
  simp only [crcBitStepUnmasked, crcBitStep, htest, htop]
  split
  · rw [BitVec.ofNat_xor, ofNat_shiftLeft, htop, BitVec.ofNat_toNat, BitVec.setWidth_eq]
  · rw [ofNat_shiftLeft, htop]

/-- Settles O2: the step on the register's number is the unmasked one, reduced to the width. -/
theorem crcBitStepInIntegers : Obligations.CrcBitStepInIntegers := by
  intro P reg b hw t
  have ht : t = reg.toNat ^^^ (b.toNat <<< (P.width - 1)) := by rw [Nat.shiftLeft_eq]
  have htop : t / 2 ^ (P.width - 1) % 2 = 1 ↔ t.testBit (P.width - 1) = true := by
    rw [Nat.testBit_eq_decide_div_mod_eq, decide_eq_true_iff]
  simp only [htop]
  constructor
  · have hstep : crcBitStep P reg b = BitVec.ofNat P.width (crcBitStepUnmasked P reg.toNat b) := by
      rw [ofNat_crcBitStepUnmasked hw, BitVec.ofNat_toNat, BitVec.setWidth_eq]
    rw [hstep, BitVec.toNat_ofNat, crcBitStepUnmasked, ← ht, Nat.shiftLeft_eq, pow_one]
    split
    · rw [Nat.xor_mod_two_pow, Nat.mod_eq_of_lt P.poly.isLt]
    · rfl
  · rw [ht, Nat.testBit_xor, BitVec.testBit_toNat, Nat.testBit_shiftLeft]
    cases b <;> simp

end Sys2Proof.Machine
end

section
/-! ### The byte step, the finalisation, and masking once per byte (R102, R103, R107) -/

namespace Sys2Proof.Machine

variable {P : CrcParams}

/-- The byte whose bits, most significant first, enter the register (R102, R108). -/
def enteredByte (P : CrcParams) (d : Byte) : Byte := if P.refin then reflect d else d

theorem getMsbD_enteredByte (P : CrcParams) (d : Byte) {k : Nat} (hk : k < 8) :
    (enteredByte P d).getMsbD k = d.getLsbD (if P.refin then k else 7 - k) := by
  rw [BitVec.getMsbD_eq_getLsbD, decide_eq_true hk, Bool.true_and, enteredByte]
  split
  · rw [getLsbD_reflect d (by omega), show 8 - 1 - (8 - 1 - k) = k by omega]
  · rfl

/-- Input reflection is one reflection of the byte, and no other change to the byte step (R102). -/
theorem crcByteStep_eq_enteredByte (P : CrcParams) (r : BitVec P.width) (d : Byte) :
    crcByteStep P r d =
      (List.range 8).foldl (fun r k => crcBitStep P r ((enteredByte P d).getMsbD k)) r :=
  List.foldl_ext _ _ _ fun r k hk => by rw [getMsbD_enteredByte P d (List.mem_range.mp hk)]

/-- The most significant bit first is the order 7 to 0. -/
theorem foldl_getMsbD (P : CrcParams) (r : BitVec P.width) (d : Byte) :
    (List.range 8).foldl (fun r k => crcBitStep P r (d.getMsbD k)) r =
      [7, 6, 5, 4, 3, 2, 1, 0].foldl (fun r i => crcBitStep P r (d.getLsbD i)) r := rfl

/-- Settles O3: the order of the bits is read off the byte that enters the register. -/
theorem crcByteStepBitOrder : Obligations.CrcByteStepBitOrder := by
  intro P r d
  refine ⟨fun h => ?_, fun h => ⟨?_, ?_⟩⟩
  · rw [crcByteStep_eq_enteredByte, foldl_getMsbD, enteredByte, h]; rfl
  · rw [crcByteStep, h]; rfl
  · rw [crcByteStep_eq_enteredByte, foldl_getMsbD, enteredByte, if_pos h]

theorem crcFinalize_crc16 (r : BitVec 16) : crcFinalize crc16 r = r := BitVec.xor_zero

theorem crcFinalize_crc32 (r : BitVec 32) : crcFinalize crc32 r = reflect r ^^^ 0xFFFFFFFF := rfl

/-- Settles O4, from the bits of a reflected register. -/
theorem crcFinalizeByBits : Obligations.CrcFinalizeByBits := by
  refine ⟨fun P r i hi => ?_, crcFinalize_crc16, crcFinalize_crc32⟩
  rw [crcFinalize, BitVec.getLsbD_xor]
  split
  · rw [getLsbD_reflect r hi]
  · rfl

/-- Masking after the byte reaches the same register as masking at every bit (R107). -/
theorem ofNat_crcByteStepMasked (hw : 0 < P.width) (n : Nat) (d : Byte) :
    BitVec.ofNat P.width (crcByteStepMasked P n d) = crcByteStep P (BitVec.ofNat P.width n) d := by
  have hmask (m : Nat) : BitVec.ofNat P.width (m % 2 ^ P.width) = BitVec.ofNat P.width m :=
    BitVec.eq_of_toNat_eq (by simp)
  rw [crcByteStepMasked, crcByteStep, hmask]
  exact (List.foldl_hom _ fun r k =>
    (ofNat_crcBitStepUnmasked hw r (d.getLsbD (if P.refin then k else 7 - k))).symm).symm

/-- Settles O5, byte by byte. -/
theorem maskPerByteGivesSameChecksum : Obligations.MaskPerByteGivesSameChecksum := by
  intro P data hw
  constructor
  · exact List.foldlRecOn (motive := (· < 2 ^ P.width)) data _ P.init.isLt fun _ _ _ _ =>
      Nat.mod_lt _ (Nat.two_pow_pos _)
  · have hreg := List.foldl_hom (BitVec.ofNat P.width) (l := data) (init := P.init.toNat)
      fun n d => (ofNat_crcByteStepMasked hw n d).symm
    rw [computeCrc, crcUpdate, ← hreg, BitVec.ofNat_toNat, BitVec.setWidth_eq]

end Sys2Proof.Machine
end

section
/-! ### The cross-check forms (R108) -/

namespace Sys2Proof.Machine

variable {P : CrcParams}

/-- A byte placed at the top of a register has the byte's bits, counted from the top. -/
theorem getMsbD_setWidth_shiftLeft {w : Nat} (hw : 8 ≤ w) (d : Byte) (k : Nat) :
    (d.setWidth w <<< (w - 8)).getMsbD k = d.getMsbD k := by
  rw [BitVec.getMsbD_shiftLeft, BitVec.getMsbD_setWidth, show k + (w - 8) + 8 - w = k by omega,
    decide_eq_true (Nat.le_add_left _ _), Bool.true_and]

theorem crcByteAtOnce_eq_enteredByte (P : CrcParams) (r : BitVec P.width) (d : Byte) :
    crcByteAtOnce P r d = (List.range 8).foldl (fun r _ => crcShiftLeft P r)
      (r ^^^ ((enteredByte P d).setWidth P.width <<< (P.width - 8))) := rfl

/-- The byte step with the whole byte XORed in at the top is the byte step bit by bit (R108). -/
theorem crcByteAtOnce_eq_crcByteStep (hw : 8 ≤ P.width) (r : BitVec P.width) (d : Byte) :
    crcByteAtOnce P r d = crcByteStep P r d := by
  have hgone : (enteredByte P d).setWidth P.width <<< (P.width - 8) <<< 8 = 0#P.width := by
    rw [← BitVec.shiftLeft_add]
    exact BitVec.shiftLeft_eq_zero (by omega)
  rw [crcByteAtOnce_eq_enteredByte, foldl_crcShiftLeft_xor (by omega), hgone, BitVec.xor_zero,
    crcByteStep_eq_enteredByte]
  simp only [getMsbD_setWidth_shiftLeft hw]

theorem reflect_xor {n : Nat} (u v : BitVec n) : reflect (u ^^^ v) = reflect u ^^^ reflect v := by
  refine BitVec.eq_of_getLsbD_eq fun i hi => ?_
  simp only [BitVec.getLsbD_xor, getLsbD_reflect _ hi]

theorem reflect_shiftLeft {n : Nat} (v : BitVec n) (k : Nat) :
    reflect (v <<< k) = reflect v >>> k := by
  refine BitVec.eq_of_getLsbD_eq fun i hi => ?_
  rw [getLsbD_reflect _ hi, BitVec.getLsbD_shiftLeft, BitVec.getLsbD_ushiftRight]
  by_cases hk : k + i < n
  · rw [getLsbD_reflect _ hk]
    simp [show n - 1 - i < n by omega, show ¬ n - 1 - i < k by omega,
      show n - 1 - i - k = n - 1 - (k + i) by omega]
  · rw [BitVec.getLsbD_of_ge _ _ (Nat.not_lt.mp hk)]
    simp [show n - 1 - i < k by omega]

/-- A byte at the top of the register, reflected, is the reflected byte at the bottom. -/
theorem reflect_topByte {w : Nat} (hw : 8 ≤ w) (d : Byte) :
    reflect ((reflect d).setWidth w <<< (w - 8)) = d.setWidth w := by
  refine BitVec.eq_of_getLsbD_eq fun i hi => ?_
  rw [reflect, BitVec.getLsbD_reverse, getMsbD_setWidth_shiftLeft hw, reflect, BitVec.getMsbD_reverse,
    BitVec.getLsbD_setWidth, decide_eq_true hi, Bool.true_and]

theorem reflect_crc32_poly : reflect crc32.poly = 0xEDB88320 := by decide +kernel

/-- The right shift of form (b) is the left shift of form (a) on the reflected register (R108). -/
theorem crc32ShiftRight_reflect (r : BitVec 32) :
    crc32ShiftRight (reflect r) = reflect (crcShiftLeft crc32 r) := by
  rw [crc32ShiftRight, crcShiftLeft, getLsbD_reflect r (by decide)]
  split
  · rw [if_pos ‹_›, reflect_xor, reflect_shiftLeft, reflect_crc32_poly]
  · rw [if_neg ‹_›, reflect_shiftLeft]

theorem crc32ByteRight_reflect (r : BitVec 32) (d : Byte) :
    crc32ByteRight (reflect r) d = reflect (crcByteStep crc32 r d) := by
  have hentered : enteredByte crc32 d = reflect d := rfl
  rw [← crcByteAtOnce_eq_crcByteStep (P := crc32) (by decide), crcByteAtOnce_eq_enteredByte, hentered,
    crc32ByteRight, ← reflect_topByte (w := 32) (by decide) d, ← reflect_xor]
  exact List.foldl_hom reflect fun r _ => crc32ShiftRight_reflect r

/-- Settles O6: form (a) and the bit-serial loop reach the same register, byte by byte, and form (b) the
reflected one. -/
theorem crossCheckFormsAgree : Obligations.CrossCheckFormsAgree := by
  refine ⟨fun P data hw => ?_, fun data => ?_⟩
  · have hbyte : crcByteAtOnce P = crcByteStep P :=
      funext₂ (crcByteAtOnce_eq_crcByteStep hw)
    rw [computeCrcByteAtOnce, hbyte, computeCrc, crcUpdate]
  · have hinit : reflect crc32.init = 0xFFFFFFFF := by decide +kernel
    have hreg := List.foldl_hom reflect (l := data) (init := crc32.init) crc32ByteRight_reflect
    rw [computeCrc32Right, computeCrc, crcFinalize_crc32, crcUpdate, ← hinit, hreg]

end Sys2Proof.Machine
end

section
/-! ### The zero residue (R110) -/

namespace Sys2Proof.Machine

variable {P : CrcParams}

/-- Fed its own top bits, most significant first, the register cancels them and shifts (R110). -/
theorem foldl_crcBitStep_self (hw : 0 < P.width) (r : BitVec P.width) (n : Nat) :
    (List.range n).foldl (fun s k => crcBitStep P s (r.getMsbD k)) r = r <<< n := by
  have hzero : (List.range n).foldl (fun s _ => crcShiftLeft P s) (0#P.width) = 0#P.width :=
    List.foldlRecOn (motive := (· = 0#P.width)) _ _ rfl fun s hs _ _ => by
      rw [hs, crcShiftLeft_eq]; simp
  have h := foldl_crcShiftLeft_xor hw r r n
  rw [BitVec.xor_self, hzero] at h
  exact BitVec.xor_eq_zero_iff.mp h.symm

/-- Fed its own top byte, the register moves the next byte up (R110). -/
theorem crcByteStep_topByte (hw : 8 ≤ P.width) (hin : P.refin = false) {r : BitVec P.width} {d : Byte}
    (hd : d = r.extractLsb' (P.width - 8) 8) : crcByteStep P r d = r <<< 8 := by
  rw [← foldl_crcBitStep_self (by omega), crcByteStep_eq_enteredByte, enteredByte, hin]
  refine List.foldl_ext _ _ _ fun s k hk => ?_
  have hk := List.mem_range.mp hk
  have hbit : d.getMsbD k = r.getMsbD k := by
    rw [hd, BitVec.getMsbD_extractLsb', Nat.sub_add_cancel hw, Nat.sub_sub_self (by omega)]
    simp [hk]
  rw [← hbit]; rfl

/-- The register after its own two bytes is zero, whatever it was (R110). -/
theorem crcUpdate_be16_self (r : BitVec 16) : crcUpdate crc16 r (be16 r) = 0 := by
  have hlow : r.extractLsb' 0 8 = (r <<< 8).extractLsb' 8 8 := by
    refine BitVec.eq_of_getLsbD_eq fun i hi => ?_
    rw [BitVec.getLsbD_extractLsb', BitVec.getLsbD_extractLsb', BitVec.getLsbD_shiftLeft]
    simp [show 8 + i < 16 by omega, show ¬ 8 + i < 8 by omega]
  have hfirst : crcByteStep crc16 r (r.extractLsb' 8 8) = r <<< 8 :=
    crcByteStep_topByte (by decide) rfl rfl
  have hsecond : crcByteStep crc16 (r <<< 8) (r.extractLsb' 0 8) = r <<< 8 <<< 8 :=
    crcByteStep_topByte (by decide) rfl hlow
  rw [be16, crcUpdate_cons, crcUpdate_cons, crcUpdate_nil, hfirst, hsecond, ← BitVec.shiftLeft_add]
  exact BitVec.shiftLeft_eq_zero (by decide)

theorem computeCrc_crc16 (m : Bytes) : computeCrc crc16 m = crcUpdate crc16 crc16.init m :=
  crcFinalize_crc16 _

theorem computeCrc_append_be16 (m : Bytes) :
    computeCrc crc16 (m ++ be16 (computeCrc crc16 m)) = 0 := by
  rw [computeCrc_crc16, computeCrc_crc16, crcUpdate_append, crcUpdate_be16_self]

/-- The length byte, the payload and the checksum bytes are the frame without its markers (R140). -/
theorem slice_assembleFrame (l : Bytes) (c : BitVec 16) (v : Variant) :
    slice (assembleFrame l c v) 6 (l.length + 2) = l ++ be16 c := by
  have hassoc : assembleFrame l c v = preamble ++ ((l ++ be16 c) ++ trailer v) := by
    simp only [assembleFrame, List.append_assoc]
  rw [slice, hassoc, List.drop_left' (i := 6) rfl, List.take_left' (by simp [be16])]

/-- Settles O7: the checksum of a sequence is its register, and the register cancels itself. -/
theorem checksummedSequenceHasZeroResidue : Obligations.ChecksummedSequenceHasZeroResidue := by
  refine ⟨computeCrc_append_be16, fun p f v h => ?_⟩
  by_cases hp : p.length ≤ maxPayload
  · cases (buildFrame_of_fits v hp).symm.trans h
    have hlen : 3 + p.length = (lengthPrefixed p).length + 2 := by
      rw [lengthPrefixed, List.length_cons]; omega
    rw [hlen, slice_assembleFrame, computeCrc_append_be16]
  · cases (buildFrame_of_tooLong v (Nat.not_le.mp hp)).symm.trans h

end Sys2Proof.Machine
end

section
/-! ### The CRC operation's commands (R119, R120, R121) -/

namespace Sys2Proof.Machine

theorem regOf_crc16 (c : BitVec 32) : regOf crc16 c = c.extractLsb' 0 16 :=
  BitVec.setWidth_eq_extractLsb' (by decide)

theorem regOf_crc32 (c : BitVec 32) : regOf crc32 c = c := BitVec.setWidth_eq c

theorem zext32_lower (v : BitVec 16) : (zext32 v).extractLsb' 0 16 = v :=
  (regOf_crc16 _).symm.trans (regOf_zext32 (P := crc16) (by decide) v)

theorem crcAfterData_crc16 (c : BitVec 32) (d : Byte) :
    crcAfterData crc16 c d = zext32 (crcByteStep crc16 (c.extractLsb' 0 16) d) := by
  rw [crcAfterData, regOf_crc16]

theorem crcAfterData_crc32 (c : BitVec 32) (d : Byte) :
    crcAfterData crc32 c d = crcByteStep crc32 c d := by
  rw [crcAfterData, regOf_crc32]
  exact BitVec.setWidth_eq _

theorem checksumOf_crc16 (c : BitVec 32) :
    checksumOf crc16 c = zext32 (crcFinalize crc16 (c.extractLsb' 0 16)) := by
  rw [checksumOf, regOf_crc16]

theorem checksumOf_crc32 (c : BitVec 32) : checksumOf crc32 c = reflect c ^^^ 0xFFFFFFFF := by
  rw [checksumOf, regOf_crc32, crcFinalize_crc32]
  exact BitVec.setWidth_eq _

theorem params_one : params 1 = crc32 := rfl

/-- Settles O8: the field holds a zero-extended 16-bit register throughout. -/
theorem crc16UsesLowerHalf : Obligations.Crc16UsesLowerHalf := by
  intro c d
  rw [crcAfterData_crc16]
  exact ⟨zext32_upper _, zext32_upper _, zext32_lower _, zext32_upper _, checksumOf_crc16_lower c⟩

/-- Settles O17, phase by phase. -/
theorem startCrcOperation : Obligations.StartCrcOperation := by
  refine ⟨decode_encode .startCrc16, decode_encode .startCrc32, fun s => ⟨fun hp => ?_, fun hp => ?_,
    fun hp => ?_, fun hp hop => ⟨fun d => ?_, ?_⟩, fun hp hop => ⟨fun d => ?_, ?_⟩⟩⟩
  · exact ⟨exec_start_idle rfl hp, exec_start_idle rfl hp⟩
  · have hb : s.phase.busy = true := by obtain hp | hp | hp := hp <;> rw [hp] <;> rfl
    exact ⟨exec_start_busy rfl hb, exec_start_busy rfl hb⟩
  · exact ⟨exec_fault _ hp, exec_fault _ hp⟩
  · rw [exec_data_crcRun hp, hop, params_zero, crcAfterData_crc16]; rfl
  · rw [exec_end_crcRun hp, endCrc, hop, params_zero, checksumOf_crc16]; rfl
  · rw [exec_data_crcRun hp, hop, params_one, crcAfterData_crc32]
  · rw [exec_end_crcRun hp, endCrc, hop, params_one, checksumOf_crc32]

end Sys2Proof.Machine
end

section
/-! ### The fields of a frame, as slices (R140, R143 to R147) -/

namespace Sys2Proof.Machine

/-- A field stands where the fields before it end, for as long as it is. -/
theorem slice_field {front field back : Bytes} {i n : Nat} (hi : front.length = i)
    (hn : field.length = n) : slice (front ++ (field ++ back)) i n = field := by
  rw [slice, List.drop_left' hi, List.take_left' hn]

/-- The byte at an offset is the one at that place in its field. -/
theorem getElem?_of_slice {f field : Bytes} {i n k j : Nat} (h : slice f i n = field) (hk : k < n)
    (hj : i + k = j) : f[j]? = field[k]? := by
  rw [← h, slice, List.getElem?_take_of_lt hk, List.getElem?_drop, hj]

theorem buildFrame_eq_frame_iff {p f : Bytes} {v : Variant} :
    buildFrame p v = .frame f ↔ p.length ≤ maxPayload ∧
      f = assembleFrame (lengthPrefixed p) (computeCrc crc16 (lengthPrefixed p)) v := by
  rcases Nat.lt_or_ge maxPayload p.length with hlong | hfit
  · simp [buildFrame_of_tooLong v hlong, Nat.not_le.mpr hlong]
  · simp [buildFrame_of_fits v hfit, hfit, eq_comm]

/-- A 16-bit value is its two bytes, the most significant one first (R54). -/
theorem toNat_eq_be16_bytes (c : BitVec 16) :
    c.toNat = (c.extractLsb' 8 8).toNat * 256 + (c.extractLsb' 0 8).toNat := by
  have hc := c.isLt
  simp only [BitVec.extractLsb'_toNat, Nat.shiftRight_eq_div_pow]
  omega

/-- The last byte of a frame, in which the variants differ (R146). -/
def lastByte : Variant → Byte
  | .a => 0x7E
  | .b => 0xAA

/-- The preamble and both trailers begin with five bytes 0xAA (R7). -/
theorem getElem?_marker {i : Nat} (hi : i < 5) (b : Byte) :
    (List.replicate 5 (0xAA : Byte) ++ [b])[i]? = some 0xAA := by
  rw [List.getElem?_append_left (by rwa [List.length_replicate]), List.getElem?_replicate_of_lt hi]

theorem preamble_eq : preamble = List.replicate 5 0xAA ++ [0x7E] := rfl

theorem trailer_eq (v : Variant) : trailer v = List.replicate 5 0xAA ++ [lastByte v] := by
  cases v <;> rfl

theorem trailer_length (v : Variant) : (trailer v).length = 6 := by cases v <;> rfl

section assembleFrame

variable (p : Bytes) (c : BitVec 16) (v : Variant)

theorem lengthPrefixed_length : (lengthPrefixed p).length = 1 + p.length := Nat.add_comm ..

/-- The checksum begins after the preamble, the length byte and the payload. -/
theorem beforeChecksum_length : (preamble ++ lengthPrefixed p).length = 7 + p.length := by
  rw [List.length_append, lengthPrefixed_length, ← Nat.add_assoc]; rfl

/-- The trailer begins after the checksum. -/
theorem beforeTrailer_length : (preamble ++ lengthPrefixed p ++ be16 c).length = 9 + p.length := by
  rw [List.length_append, beforeChecksum_length, Nat.add_right_comm]; rfl

theorem assembleFrame_length : (assembleFrame (lengthPrefixed p) c v).length = 15 + p.length := by
  rw [assembleFrame, List.length_append, beforeTrailer_length, trailer_length, Nat.add_right_comm]

theorem slice_preamble : slice (assembleFrame (lengthPrefixed p) c v) 0 6 = preamble := rfl

theorem assembleFrame_lengthByte :
    (assembleFrame (lengthPrefixed p) c v)[6]? = some (BitVec.ofNat 8 p.length) := rfl

theorem slice_lengthPrefixed :
    slice (assembleFrame (lengthPrefixed p) c v) 6 (1 + p.length) = lengthPrefixed p := by
  rw [assembleFrame, List.append_assoc, List.append_assoc]
  exact slice_field rfl (lengthPrefixed_length p)

theorem slice_payload : slice (assembleFrame (lengthPrefixed p) c v) 7 p.length = p := by
  have hfields : assembleFrame (lengthPrefixed p) c v =
      (preamble ++ [BitVec.ofNat 8 p.length]) ++ (p ++ (be16 c ++ trailer v)) := by
    simp only [assembleFrame, lengthPrefixed, List.append_assoc, List.cons_append, List.nil_append]
  rw [hfields]
  exact slice_field rfl rfl

theorem slice_checksum :
    slice (assembleFrame (lengthPrefixed p) c v) (7 + p.length) 2 = be16 c := by
  rw [assembleFrame, List.append_assoc]
  exact slice_field (beforeChecksum_length p) rfl

theorem slice_trailer :
    slice (assembleFrame (lengthPrefixed p) c v) (9 + p.length) 6 = trailer v := by
  have h := slice_field (back := []) (beforeTrailer_length p c) (trailer_length v)
  rwa [List.append_nil] at h

end assembleFrame

/-- Settles O9, on the two sides of `MAX_PAYLOAD`. -/
theorem payloadLengthCheck : Obligations.PayloadLengthCheck :=
  fun _ v => ⟨fun h => ⟨_, buildFrame_of_fits v h⟩, buildFrame_of_tooLong v⟩

/-- Settles O10: each offset is a place in one field of the frame. -/
theorem frameLayout : Obligations.FrameLayout := by
  intro p f v h
  obtain ⟨hfit, rfl⟩ := buildFrame_eq_frame_iff.mp h
  have hn : p.length ≤ 255 := hfit
  have hlen := assembleFrame_length p (computeCrc crc16 (lengthPrefixed p)) v
  have hchecksum := slice_checksum p (computeCrc crc16 (lengthPrefixed p)) v
  have htrailer := (slice_trailer p (computeCrc crc16 (lengthPrefixed p)) v).trans (trailer_eq v)
  refine ⟨hn, hlen, by omega, by omega, fun i hi => ?_, rfl, assembleFrame_lengthByte p _ v,
    fun i hi => getElem?_of_slice (slice_payload p _ v) hi rfl,
    getElem?_of_slice hchecksum (k := 0) (by decide) rfl,
    getElem?_of_slice hchecksum (k := 1) (by decide) (by omega), fun i hi => ?_, ?_⟩
  · rw [getElem?_of_slice (slice_preamble p _ v) (Nat.lt_succ_of_lt hi) (Nat.zero_add i), preamble_eq,
      getElem?_marker hi]
  · rw [getElem?_of_slice htrailer (Nat.lt_succ_of_lt hi) rfl, getElem?_marker hi]
  · rw [getElem?_of_slice htrailer (k := 5) (by decide) (by omega)]
    cases v <;> rfl

end Sys2Proof.Machine
end

section
/-! ### The two variants, and the round trip (R146, R153) -/

namespace Sys2Proof.Machine

/-- A frame without its last byte. -/
def frameBody (p : Bytes) : Bytes :=
  preamble ++ lengthPrefixed p ++ be16 (computeCrc crc16 (lengthPrefixed p)) ++ List.replicate 5 0xAA

theorem frameBody_length (p : Bytes) : (frameBody p).length = 14 + p.length := by
  rw [frameBody, List.length_append, beforeTrailer_length, List.length_replicate, Nat.add_right_comm]

theorem assembleFrame_eq_frameBody (p : Bytes) (v : Variant) :
    assembleFrame (lengthPrefixed p) (computeCrc crc16 (lengthPrefixed p)) v =
      frameBody p ++ [lastByte v] := by
  rw [assembleFrame, trailer_eq, frameBody, List.append_assoc _ (List.replicate 5 _)]

/-- Settles O11: the common body is all of the frame but the last byte of the trailer. -/
theorem variantsDifferInLastByteOnly : Obligations.VariantsDifferInLastByteOnly := by
  intro p hp
  have hbuild (v : Variant) : buildFrame p v = .frame (frameBody p ++ [lastByte v]) := by
    rw [buildFrame_of_fits v hp, assembleFrame_eq_frameBody]
  have htrailer (v : Variant) : slice (frameBody p ++ [lastByte v]) (9 + p.length) 6 = trailer v := by
    rw [← assembleFrame_eq_frameBody, slice_trailer]
  exact ⟨frameBody p, frameBody_length p, hbuild .a, hbuild .b, htrailer .a, htrailer .b⟩

section roundTrip

variable {p : Bytes} (v : Variant)

theorem lengthByte_toNat (c : BitVec 16) (h : p.length ≤ maxPayload) :
    ((assembleFrame (lengthPrefixed p) c v).getD 6 0).toNat = p.length :=
  Nat.mod_eq_of_lt (Nat.lt_succ_of_le h)

theorem payloadOf_assembleFrame (c : BitVec 16) (h : p.length ≤ maxPayload) :
    payloadOf (assembleFrame (lengthPrefixed p) c v) = p := by
  rw [payloadOf, lengthByte_toNat v c h, slice_payload]

/-- The check procedure accepts what the encoder assembles (R153). -/
theorem checkFrame_assembleFrame (h : p.length ≤ maxPayload) :
    checkFrame (assembleFrame (lengthPrefixed p) (computeCrc crc16 (lengthPrefixed p)) v) v = true := by
  simp only [checkFrame, lengthByte_toNat v _ h, assembleFrame_length, slice_preamble,
    slice_lengthPrefixed, slice_checksum, slice_trailer, beq_self_eq_true,
    Nat.le_add_right, decide_true, Bool.and_self]

/-- The two bytes after the payload are the checksum, most significant first (R144). -/
theorem checksum_toNat_eq_frame_bytes (c : BitVec 16) :
    c.toNat = ((assembleFrame (lengthPrefixed p) c v).getD (7 + p.length) 0).toNat * 256 +
      ((assembleFrame (lengthPrefixed p) c v).getD (8 + p.length) 0).toNat := by
  have hslice := slice_checksum p c v
  rw [List.getD_eq_getElem?_getD, List.getD_eq_getElem?_getD,
    getElem?_of_slice hslice (k := 0) (by decide) (Nat.add_zero _),
    getElem?_of_slice hslice (k := 1) (by decide) (Nat.add_right_comm 7 _ 1)]
  exact toNat_eq_be16_bytes c

end roundTrip

/-- Settles O12, field by field of the assembled frame. -/
theorem frameRoundTrip : Obligations.FrameRoundTrip := by
  intro p v hp
  refine ⟨_, buildFrame_of_fits v hp, slice_preamble .., assembleFrame_lengthByte .., slice_payload ..,
    ?_, slice_trailer .., assembleFrame_length .., ?_, checkFrame_assembleFrame v hp,
    payloadOf_assembleFrame v _ hp⟩
  · rw [slice_lengthPrefixed]
    exact checksum_toNat_eq_frame_bytes v _
  · exact checksummedSequenceHasZeroResidue.2 p _ v (buildFrame_of_fits v hp)

end Sys2Proof.Machine
end

section
/-! ### The frame operation's commands (R155, R156) -/

namespace Sys2Proof.Machine

theorem trailer_variantOf (op : BitVec 2) : trailer (variantOf op) =
    if op = 2 then [0xAA, 0xAA, 0xAA, 0xAA, 0xAA, 0x7E] else [0xAA, 0xAA, 0xAA, 0xAA, 0xAA, 0xAA] := by
  rw [variantOf]; split <;> rfl

/-- The emitted frame, with its checksum and its trailer written out (R155, R156, R171). -/
theorem frameOf_eq (s : State) :
    frameOf s = preamble ++ (s.cnt :: storedPayload s) ++
      be16 (crcUpdate crc16 (s.crc.extractLsb' 0 16) (s.cnt :: storedPayload s)) ++
      (if s.op = 2 then [0xAA, 0xAA, 0xAA, 0xAA, 0xAA, 0x7E]
        else [0xAA, 0xAA, 0xAA, 0xAA, 0xAA, 0xAA]) := by
  rw [frameOf, frameRegister, crcFinalize_crc16, regOf_crc16, assembleFrame, trailer_variantOf]

/-- Settles O18, phase by phase. -/
theorem startFrameOperation : Obligations.StartFrameOperation := by
  refine ⟨decode_encode .startFrameA, decode_encode .startFrameB, fun s => ⟨fun hp => ?_, fun hp => ?_,
    fun hp => ?_, fun d hp hc => ?_, fun d hp hc => ?_, fun hp _ => ?_, fun hp => ?_⟩⟩
  · exact ⟨exec_start_idle rfl hp, exec_start_idle rfl hp⟩
  · have hb : s.phase.busy = true := by obtain hp | hp | hp := hp <;> rw [hp] <;> rfl
    exact ⟨exec_start_busy rfl hb, exec_start_busy rfl hb⟩
  · exact ⟨exec_fault _ hp, exec_fault _ hp⟩
  · exact exec_data_store hp hc
  · exact exec_data_overflow hp (by rw [hc]; decide)
  · refine ⟨endFrame s, _, exec_end_frameRun hp, rfl, rfl, rfl, ?_⟩
    rw [endFrame_tx, frameOf_eq]; rfl
  · exact exec_end_frameOvf hp

end Sys2Proof.Machine
end

section
/-! ### DATA and END, phase by phase (R170, R171) -/

namespace Sys2Proof

/-- The word of DATA is its kind above its byte (R70, R75). -/
theorem encode_data (d : Byte) : encode (.data d) = 0x100#10 + d.setWidth 10 := by
  have hw : (encode (.data d)).toNat = 256 + d.toNat := cmdWord_toNat 1 d
  bv_omega

end Sys2Proof

namespace Sys2Proof.Machine

/-- Settles O19, phase by phase. -/
theorem dataInEveryPhase : Obligations.DataInEveryPhase := by
  refine ⟨fun d => encode_data d ▸ decode_encode (.data d), fun d s => ⟨exec_fault _, exec_data_idle,
    exec_data_crcRun, exec_data_store, fun hp hc => ?_, exec_data_frameOvf⟩⟩
  exact exec_data_overflow hp (by rw [hc]; decide)

/-- END in `FRAME_RUN`, with the register and the frame written out (R171). -/
theorem endFrame_eq (s : State) :
    endFrame s = { s with
      crc := zext32 (crcUpdate crc16 (s.crc.extractLsb' 0 16) (s.cnt :: storedPayload s))
      tx := s.tx ++ [preamble ++ (s.cnt :: storedPayload s) ++
        be16 (crcUpdate crc16 (s.crc.extractLsb' 0 16) (s.cnt :: storedPayload s)) ++
        (if s.op = 2 then [0xAA, 0xAA, 0xAA, 0xAA, 0xAA, 0x7E]
          else [0xAA, 0xAA, 0xAA, 0xAA, 0xAA, 0xAA])]
      err := .noError
      phase := .idle } := by
  rw [endFrame, frameOf_eq, frameRegister, regOf_crc16]; rfl

/-- Settles O21, phase by phase. -/
theorem endInEveryPhase : Obligations.EndInEveryPhase := by
  refine ⟨decode_encode .endOp, fun s => ⟨exec_fault _, exec_end_idle, exec_end_crcRun, fun hp => ?_,
    exec_end_frameOvf⟩⟩
  rw [exec_end_frameRun hp, endFrame_eq]; rfl

end Sys2Proof.Machine
end

section
/-! ### The only store (R175) -/

namespace Sys2Proof.Machine

/-- Every way the block can act on a word, but DATA in `FRAME_RUN` below the full count, leaves what a read
of the buffer depends on. -/
theorem Happens.buf_epoch_eq {w : CmdWord} {s t : State} (h : Happens s (.word w) t)
    (hne : ¬ ((∃ d, decode w = .instr (.data d)) ∧ s.phase = .frameRun ∧ s.cnt.toNat < maxPayload)) :
    t.buf = s.buf ∧ t.epoch = s.epoch := by
  cases h with
  | dataStore hd hp hc => exact absurd ⟨⟨_, hd⟩, hp, hc⟩ hne
  | reserved | startBusy | dataIdle | endIdle | endOverflow =>
    exact ⟨takeException_buf .., takeException_epoch ..⟩
  | ignored | start | dataCrc | dataOverflow | dataDropped | endCrc | endFrame => exact ⟨rfl, rfl⟩

/-- Settles O20: `bufRead_bufWrite` for the store, and the frame of every other case of `Happens`. -/
theorem onlyDataStores : Obligations.OnlyDataStores := by
  refine ⟨fun d s hp hc => ?_, fun i s t h hne => ?_⟩
  · refine ⟨_, exec_data_store hp hc, Nat.le_of_lt_succ hc, ?_, fun a ha => ?_, cnt_succ_toNat s hc⟩
    · rw [bufRead_bufWrite, if_pos rfl]
    · rw [bufRead_bufWrite, if_neg ha]
      exact bufRead_congr rfl rfl a
  · have hpres : present (.word (encode i)) s = .next t := (present_instr (decode_encode i) s).trans h
    have hframe := (happens_of_present hpres).buf_epoch_eq
    simp only [decode_encode, Decoded.instr.injEq] at hframe
    obtain ⟨hbuf, hepoch⟩ := hframe hne
    exact ⟨hbuf, bufRead_congr hbuf hepoch⟩

end Sys2Proof.Machine
end

section
/-! ### One step per event, and the phase it leads to (R172, R174) -/

namespace Sys2Proof.Machine

open Sys2Proof.Safety

/-- Settles O39: every event is answered, and no way of answering touches the events to come. -/
theorem everyEventCompletes : Obligations.EveryEventCompletes := by
  intro s e es hin
  obtain ⟨t, hpres, hh⟩ := present_happens e { s with input := es }
  exact ⟨t, (step_cons hin).trans hpres, hh.input_eq, hpres⟩

section columnOf

variable {w : CmdWord}

theorem columnOf_reserved {r : Reserved} (hd : decode w = .reserved r) :
    columnOf (.word w) = .reserved := by
  simp [columnOf, hd]

theorem columnOf_data {d : Byte} (hd : decode w = .instr (.data d)) : columnOf (.word w) = .data := by
  simp [columnOf, hd]

theorem columnOf_end (hd : decode w = .instr .endOp) : columnOf (.word w) = .endOp := by
  simp [columnOf, hd]

/-- A START word is in the column of the unit it starts. -/
theorem columnOf_start {i : Instr} (hd : decode w = .instr i) (hi : i.isStart = true) :
    columnOf (.word w) = .startCrc ∧ startPhase i = .crcRun ∨
      columnOf (.word w) = .startFrame ∧ startPhase i = .frameRun := by
  cases i with
  | startCrc16 | startCrc32 => exact .inl ⟨by simp [columnOf, hd], rfl⟩
  | startFrameA | startFrameB => exact .inr ⟨by simp [columnOf, hd], rfl⟩
  | data | endOp => exact absurd hi (by simp [Instr.isStart])

theorem columnOf_word_ne_reset (w : CmdWord) : columnOf (.word w) ≠ .reset := by
  obtain ⟨i, rfl⟩ | ⟨r, hd, -⟩ := encoded_or_reserved w
  · cases i <;> simp [columnOf]
  · simp [columnOf_reserved hd]

end columnOf

/-- Every column of the table but reset leaves `FAULT` as it is (R210). -/
theorem phaseTable_fault (c : BitVec 8) {k : Column} (hk : k ≠ .reset) :
    phaseTable .fault c k = .fault := by
  cases k with
  | reset => exact absurd rfl hk
  | startCrc | startFrame | data | endOp | reserved => rfl

/-- START while busy leads to `FAULT`, whichever unit it would start (R202). -/
theorem phaseTable_start_busy {ph : Phase} (c : BitVec 8) (hb : ph.busy = true) :
    phaseTable ph c .startCrc = .fault ∧ phaseTable ph c .startFrame = .fault := by
  cases ph with
  | crcRun | frameRun | frameOvf => exact ⟨rfl, rfl⟩
  | idle | fault => cases hb

/-- Every way the block can act leads to the phase the table gives (R172). -/
theorem Happens.phase_eq {e : Event} {s t : State} (h : Happens s e t) :
    t.phase = phaseTable s.phase s.cnt (columnOf e) := by
  cases h with
  | reset => rfl
  | ignored hp => rw [hp, phaseTable_fault _ (columnOf_word_ne_reset _)]
  | reserved hd => rw [columnOf_reserved hd]; rfl
  | start hd hi hp =>
    obtain ⟨hcol, hrun⟩ | ⟨hcol, hrun⟩ := columnOf_start hd hi <;> rw [hcol, hp] <;> exact hrun
  | startBusy hd hi hb =>
    obtain ⟨hcrc, hframe⟩ := phaseTable_start_busy s.cnt hb
    obtain ⟨hcol, -⟩ | ⟨hcol, -⟩ := columnOf_start hd hi
    · rw [hcol, hcrc]; rfl
    · rw [hcol, hframe]; rfl
  | dataIdle hd hp => rw [columnOf_data hd, hp]; rfl
  | dataCrc hd hp => rw [columnOf_data hd, hp]; rfl
  | dataStore hd hp hc =>
    have hnext : phaseTable .frameRun s.cnt .data = .frameRun := if_pos hc
    rw [columnOf_data hd, hp, hnext]; rfl
  | dataOverflow hd hp hc => rw [columnOf_data hd, hp]; exact (if_neg hc).symm
  | dataDropped hd hp => rw [columnOf_data hd, hp]; rfl
  | endIdle hd hp | endCrc hd hp | endFrame hd hp | endOverflow hd hp =>
    rw [columnOf_end hd, hp]; rfl

end Sys2Proof.Machine

namespace Sys2Proof.Laws

open Sys2Proof.Machine

/-- Settles O34: the answer of every event, and the phase of each way of answering. -/
theorem phaseTable : Obligations.PhaseTable := by
  intro e s
  obtain ⟨t, hpres, hh⟩ := present_happens e s
  exact ⟨t, hpres, hh.phase_eq⟩

end Sys2Proof.Laws
end

section
/-! ### The commands add up to the document's functions (R177, R178, R179) -/

namespace Sys2Proof.Machine

open Sys2Proof.Safety

/-- Settles O45: the run over the operation, with the register and the checksum in the document's terms. -/
theorem crcOperationComputesChecksum : Obligations.CrcOperationComputesChecksum := by
  intro s d rest hp
  refine ⟨fun hin => ?_, fun hin => ?_⟩
  · have hreg := foldl_crcAfterData (P := crc16) (by decide) crc16.init d
    have hsum := checksumOf_foldl_crcAfterData (P := crc16) (by decide) d
    rw [← operation_length .startCrc16, run_crcOperation rfl rfl hp hin]
    simp only [endCrc, started, startOp, startCrcInit, params_opCrc16, hsum]
    rw [hreg]; rfl
  · have hreg := foldl_crcAfterData (P := crc32) (by decide) crc32.init d
    have hsum := checksumOf_foldl_crcAfterData (P := crc32) (by decide) d
    rw [← operation_length .startCrc32, run_crcOperation rfl rfl hp hin]
    simp only [endCrc, started, startOp, startCrcInit, params_opCrc32, hsum]
    rw [hreg]
    simp [zext32, opCrc32]

/-- The register END leaves in a frame operation is the checksum over the length byte and the payload
(R171, R178). -/
theorem frameRegister_eq_computeCrc {s : State} {p : Bytes} (hcrc : s.crc = zext32 crc16.init)
    (hpay : storedPayload s = p) (hcnt : s.cnt = BitVec.ofNat 8 p.length) :
    frameRegister s = computeCrc crc16 (lengthPrefixed p) := by
  rw [frameRegister, hcrc, regOf_zext32 (by decide), hpay, hcnt, computeCrc_crc16]; rfl

theorem frameStart_op (v : Variant) :
    startOp (frameStart v) = match v with | .a => 2 | .b => 3 := by
  cases v <;> rfl

/-- Settles O46, on the two sides of `MAX_PAYLOAD`. -/
theorem frameOperationBuildsFrame : Obligations.FrameOperationBuildsFrame := by
  intro s v p rest hp hin
  change s.input = wordsOf (operation (frameStart v) p) ++ rest at hin
  have hi := frameStart_isStart v
  have hrun := frameStart_phase v
  rw [← operation_length (frameStart v)]
  rcases Nat.lt_or_ge maxPayload p.length with hlong | hfit
  · refine ⟨_, run_frameOperation_tooLong hi hrun hp hlong hin, rfl, rfl, rfl, rfl, frameStart_op v,
      fun hfit => absurd hfit (Nat.not_le.mpr hlong), fun _ => ?_⟩
    exact ⟨rfl, rfl, rfl, buildFrame_of_tooLong v hlong⟩
  · refine ⟨_, run_frameOperation_fits hi hrun hp hfit hin, rfl, rfl, rfl, rfl, frameStart_op v,
      fun _ => ?_, fun hlong => absurd hfit (Nat.not_le.mpr hlong)⟩
    have hcnt : (BitVec.ofNat 8 p.length).toNat = p.length := Nat.mod_eq_of_lt (Nat.lt_succ_of_le hfit)
    have hpay := storedPayload_of_writeAll
      (s := { started (frameStart v) s with
        buf := s.buf.writeAll 0 p, cnt := BitVec.ofNat 8 p.length, input := rest }) rfl hcnt
    have hbuilt := buildFrame_eq_frameOf (frameStart_crcInit v) hpay rfl hfit
    refine ⟨rfl, hcnt, ⟨_, (congrArg _ (frameStart_variant v).symm).trans hbuilt, rfl⟩, ?_⟩
    exact congrArg zext32 (frameRegister_eq_computeCrc (frameStart_crcInit v) hpay rfl)

/-- Whole operations back to back leave the block idle, with their frames in order (R179). -/
theorem run_flatMap_expand {ms : List Macro} {s : State} {rest : List Event} (hp : s.phase = .idle)
    (hin : s.input = wordsOf (ms.flatMap Macro.expand) ++ rest) :
    ∃ t, run (ms.flatMap Macro.expand).length s = .next t ∧ t.phase = .idle ∧ t.input = rest ∧
      t.tx = s.tx ++ ms.filterMap frameOutput := by
  induction ms generalizing s with
  | nil => exact ⟨s, rfl, hp, hin, (List.append_nil _).symm⟩
  | cons m ms ih =>
    rw [List.flatMap_cons, wordsOf_append, List.append_assoc] at hin
    obtain ⟨u, hfirst, huin, hu⟩ := run_expand m hp hin
    obtain ⟨t, hrest, htp, htin, httx⟩ := ih hu.phase huin
    refine ⟨t, ?_, htp, htin, ?_⟩
    · rw [List.flatMap_cons, List.length_append, run_add _ _ hfirst, hrest]
    · rw [httx, hu.tx, List.append_assoc, List.filterMap_cons]
      cases frameOutput m <;> rfl

/-- Settles O47: the operations before leave the block idle, and the last one has its own outcome. -/
theorem operationsAreIndependent : Obligations.OperationsAreIndependent := by
  intro ms m s rest hp hin
  rw [List.flatMap_append, List.flatMap_singleton] at hin ⊢
  rw [wordsOf_append, List.append_assoc] at hin
  obtain ⟨u, hbefore, hup, huin, hutx⟩ := run_flatMap_expand hp hin
  obtain ⟨t, hlast, htin, ht⟩ := run_expand m hup huin
  refine ⟨t, ?_, ht.phase, htin, ?_, ht.err, ht.op, ht.cnt, ht.result⟩
  · rw [List.length_append, run_add _ _ hbefore, hlast]
  · rw [ht.tx, hutx, List.append_assoc, List.filterMap_append, List.filterMap_cons]
    cases frameOutput m <;> rfl

end Sys2Proof.Machine
end

section
/-! ### Which words are a `ProtocolViolation`, and what they lead to (R202, R206, R208) -/

namespace Sys2Proof.Machine

open Sys2Proof.Safety

/-- The busy phases, by name (R28). -/
theorem Phase.busy_iff {ph : Phase} :
    ph.busy = true ↔ ph = .crcRun ∨ ph = .frameRun ∨ ph = .frameOvf := by
  cases ph <;> decide

theorem startPhase_ne_fault (i : Instr) : startPhase i ≠ .fault := by
  cases i <;> simp [startPhase]

/-- Outside `FAULT`, no event leads there but by the cases (a) to (d) of R202. -/
theorem Happens.violates_of_fault {e : Event} {s t : State} (h : Happens s e t)
    (hs : s.phase ≠ .fault) (ht : t.phase = .fault) : Violates e s.phase := by
  cases h with
  | reserved hd hp => exact .inl ⟨_, _, rfl, hd⟩
  | startBusy hd hi hb => exact .inr (.inl ⟨⟨_, hi, _, rfl, hd⟩, hb⟩)
  | dataIdle hd hp => exact .inr (.inr (.inl ⟨⟨_, _, rfl, hd⟩, hp⟩))
  | endIdle hd hp => exact .inr (.inr (.inr ⟨⟨_, rfl, hd⟩, hp⟩))
  | start hd hi hp => exact absurd ht (startPhase_ne_fault _)
  | ignored | dataCrc | dataStore | dataDropped => exact absurd ht hs
  | reset | dataOverflow | endCrc | endFrame | endOverflow => nomatch ht

/-- Outside `FAULT`, the cases (a) to (d) of R202 are exactly the events that lead there. -/
theorem Happens.phase_fault_iff {e : Event} {s t : State} (h : Happens s e t) (hs : s.phase ≠ .fault) :
    t.phase = .fault ↔ Violates e s.phase := by
  refine ⟨h.violates_of_fault hs, fun hv => ?_⟩
  rw [(happens_of_violates hs hv).eq_of_present h.present_eq]
  rfl

/-- Settles O23, by the cases of R202 that `Violates` names. -/
theorem violationCases : Obligations.ViolationCases := by
  intro e s hs
  obtain ⟨t, hpres, hh⟩ := present_happens e s
  refine ⟨t, hpres, (hh.phase_fault_iff hs).trans ⟨?_, ?_⟩⟩
  · rintro (hr | ⟨⟨i, hi, w, he, hd⟩, hb⟩ | ⟨⟨d, w, he, hd⟩, hp⟩ | ⟨⟨w, he, hd⟩, hp⟩)
    · exact .inl hr
    · exact .inr (.inl ⟨w, i, he, hd, hi, Phase.busy_iff.mp hb⟩)
    · exact .inr (.inr (.inl ⟨w, d, he, hd, hp⟩))
    · exact .inr (.inr (.inr ⟨w, he, hd, hp⟩))
  · rintro (hr | ⟨w, i, he, hd, hi, hb⟩ | ⟨w, d, he, hd, hp⟩ | ⟨w, he, hd, hp⟩)
    · exact .inl hr
    · exact .inr (.inl ⟨⟨i, hi, w, he, hd⟩, Phase.busy_iff.mpr hb⟩)
    · exact .inr (.inr (.inl ⟨⟨d, w, he, hd⟩, hp⟩))
    · exact .inr (.inr (.inr ⟨⟨w, he, hd⟩, hp⟩))

/-- Settles O24: every raising case is the entry of R208. -/
theorem violationEntry : Obligations.ViolationEntry :=
  fun _ _ hs hv => (happens_of_violates hs hv).present_eq

/-- Settles O25: END in `FRAME_OVF` is the entry of R207; the rest are clauses of the invariant. -/
theorem payloadLengthErrorEntry : Obligations.PayloadLengthErrorEntry := by
  refine fun s hp => ⟨exec_end_frameOvf hp, fun hinv => ⟨hinv.overflow hp, ?_, ?_⟩⟩
  · exact (hinv.frame (.inr hp)).2
  · exact (hinv.busyClean (by rw [hp]; rfl)).2

/-- An instruction is out of protocol as a START while busy, or as DATA or END while idle (R202). -/
theorem violates_instr_iff {w : CmdWord} {i : Instr} {ph : Phase} (hd : decode w = .instr i) :
    Violates (.word w) ph ↔
      (i.isStart = true ∧ ph.busy = true) ∨ (i.isStart = false ∧ ph = .idle) := by
  have of_word {j : Instr} (h : IsWordOf (.word w) j) : j = i := by
    obtain ⟨_, ⟨⟩, hj⟩ := h
    exact Decoded.instr.inj (hj.symm.trans hd)
  constructor
  · rintro (⟨_, r, ⟨⟩, hr⟩ | ⟨⟨j, hj, hw⟩, hb⟩ | ⟨⟨d, hw⟩, hp⟩ | ⟨hw, hp⟩)
    · cases hr.symm.trans hd
    · exact .inl ⟨of_word hw ▸ hj, hb⟩
    · exact .inr ⟨of_word hw ▸ rfl, hp⟩
    · exact .inr ⟨of_word hw ▸ rfl, hp⟩
  · rintro (⟨hi, hb⟩ | ⟨hi, hp⟩)
    · exact .inr (.inl ⟨⟨i, hi, w, rfl, hd⟩, hb⟩)
    · cases i with
      | startCrc16 | startCrc32 | startFrameA | startFrameB => cases hi
      | data d => exact .inr (.inr (.inl ⟨⟨d, w, rfl, hd⟩, hp⟩))
      | endOp => exact .inr (.inr (.inr ⟨⟨w, rfl, hd⟩, hp⟩))

/-- The code 1 is written by END in `FRAME_OVF` alone; otherwise it stood there before (R27, R207). -/
theorem Happens.err_length {e : Event} {s t : State} (h : Happens s e t)
    (ht : t.err = .invalidPayloadLength) :
    s.err = .invalidPayloadLength ∨ (IsWordOf e .endOp ∧ s.phase = .frameOvf) := by
  cases h with
  | endOverflow hd hp => exact .inr ⟨⟨_, rfl, hd⟩, hp⟩
  | ignored | dataCrc | dataStore | dataOverflow | dataDropped => exact .inl ht
  | reset | reserved | start | startBusy | dataIdle | endIdle | endCrc | endFrame => nomatch ht

/-- Settles O26, check by check; a word that no check catches takes a way of `Happens` that raises
nothing. -/
theorem checkPriority : Obligations.CheckPriority := by
  intro w s
  refine ⟨present_fault w, fun hs ⟨r, hd⟩ => (Happens.reserved hd hs).present_eq,
    fun i hs hd hv => ?_, fun hd hp => (Happens.endOverflow hd hp).present_eq,
    fun i hs hd hnv hno => ?_⟩
  · exact (happens_of_violates hs ((violates_instr_iff hd).mpr hv)).present_eq
  · obtain ⟨t, hpres, hh⟩ := present_happens (.word w) s
    refine ⟨t, hpres, (present_instr hd s).symm.trans hpres, fun ht => ?_, fun ht => ?_⟩
    · exact hnv ((violates_instr_iff hd).mp (hh.violates_of_fault hs ht))
    · obtain herr | ⟨⟨_, ⟨⟩, hend⟩, hp⟩ := hh.err_length ht
      · exact herr
      · exact absurd ⟨Decoded.instr.inj (hd.symm.trans hend), hp⟩ hno

end Sys2Proof.Machine
end

section
/-! ### `FAULT` until a reset, and the operations that end in a length error (R201, R210) -/

namespace Sys2Proof.Machine

open Sys2Proof.Safety

/-- In `FAULT` every word is taken and ignored, however many come (R210). -/
theorem run_words_of_fault {s : State} {ws : List CmdWord} {rest : List Event}
    (hp : s.phase = .fault) (hin : s.input = ws.map .word ++ rest) :
    run ws.length s = .next { s with input := rest } := by
  induction ws generalizing s with
  | nil => subst hin; rfl
  | cons w ws ih =>
    have hstep : step s = .next { s with input := ws.map .word ++ rest } :=
      (step_cons hin).trans (present_fault w hp)
    rw [List.length_cons, run_succ _ hstep]
    exact ih hp rfl

/-- Settles O27, by induction on the words and by what the reset event writes. -/
theorem faultIsLeftOnlyByReset : Obligations.FaultIsLeftOnlyByReset :=
  fun s _ _ hp hin => ⟨run_words_of_fault hp hin, resetEvent s, rfl, rfl, rfl⟩

/-- The operations whose documented outcome is a length error (R178, R201). -/
theorem errorOutput_length_iff (m : Macro) :
    errorOutput m = .invalidPayloadLength ↔
      ∃ p, (m = .frameA p ∨ m = .frameB p) ∧ maxPayload < p.length := by
  cases m with
  | crc16 d | crc32 d => simp [errorOutput]
  | frameA p | frameB p => simp [errorOutput]

/-- Settles O49: the operation completes with its documented error code. -/
theorem lengthErrorExactlyWhenTooLong : Obligations.LengthErrorExactlyWhenTooLong := by
  intro m s rest hp hin
  obtain ⟨t, hrun, -, hc⟩ := run_expand m hp hin
  exact ⟨t, hrun, hc.err ▸ errorOutput_length_iff m⟩

end Sys2Proof.Machine
end

section
/-! ### The reset event and the first operation after it (R230, R231) -/

namespace Sys2Proof.Machine

open Sys2Proof.Safety

/-- Settles O28: what the reset event answers is `resetEvent s`, whatever the phase. -/
theorem resetEventEffect : Obligations.ResetEventEffect :=
  fun s => ⟨resetEvent s, Happens.reset.present_eq, resetEvent_phase s, resetEvent_op s, resetEvent_cnt s,
    resetEvent_resultValid s, resetEvent_err s, resetEvent_tx s, resetEvent_input s⟩

/-- Settles O30: the reset event leaves the block idle, and from every idle state the operation completes
with its documented outcome. -/
theorem firstOperationAfterReset : Obligations.FirstOperationAfterReset := by
  intro s m rest hin
  have hreset : step s = .next (resetEvent { s with input := wordsOf m.expand ++ rest }) :=
    (step_cons hin).trans Happens.reset.present_eq
  have hinput : (resetEvent { s with input := wordsOf m.expand ++ rest }).input =
      wordsOf m.expand ++ rest := resetEvent_input _
  obtain ⟨t, hrun, htin, ht⟩ := run_expand m (resetEvent_phase _) hinput
  refine ⟨t, ?_, ht.phase, ht.tx, ht.err, ht.op, ht.cnt, ht.result, htin⟩
  rw [Nat.add_comm, run_succ _ hreset, hrun]

end Sys2Proof.Machine
end

section
/-! ### The command port's container: words wider than the port (R70, R75) -/

namespace Sys2Proof

/-- A command word in a container at least as wide as the port is that word. -/
theorem portWord_toNat {nbits : Nat} (h : 10 ≤ nbits) (w : CmdWord) :
    portWord nbits w.toNat = some w := by
  have hw : w.toNat < 1024 := w.isLt
  have hmod : w.toNat % 2 ^ nbits = w.toNat :=
    Nat.mod_eq_of_lt (w.isLt.trans_le (Nat.pow_le_pow_right (by decide) h))
  rw [portWord, hmod, if_pos hw, BitVec.ofNat_toNat, BitVec.setWidth_eq]

/-- The table interface reads the instructions that the decoder reads from the port's word. -/
theorem decodeTableWord_eq_some_iff {nbits w : Nat} {i : Instr} :
    decodeTableWord nbits w = some i ↔ ∃ x, portWord nbits w = some x ∧ decode x = .instr i := by
  cases hx : portWord nbits w with
  | none => simp [decodeTableWord, hx]
  | some x => cases hd : decode x <;> simp [decodeTableWord, hx, hd]

/-- Settles O16: the decoder inverts the encoder on every instruction, and every word that is no reserved
one is an encoding. -/
theorem decodeEncodeInverse : Obligations.DecodeEncodeInverse := by
  refine ⟨fun i _ => ⟨decode_encode i, ?_⟩, fun _ _ => encode_of_decode⟩
  exact decodeTableWord_eq_some_iff.mpr ⟨encode i, portWord_toNat (by decide) _, decode_encode i⟩

/-- Settles O13: each word is the encoding of its instruction. -/
theorem specWordsDecode : Obligations.SpecWordsDecode :=
  ⟨decode_encode .startCrc16, decode_encode .startCrc32, decode_encode .startFrameA,
    decode_encode .startFrameB, decode_encode (.data 0x31), decode_encode (.data 0xFF),
    decode_encode .endOp⟩

end Sys2Proof

namespace Sys2Proof.Machine

/-- The placed word is presented next, to the block as it stands (log 4). -/
theorem step_withNextWord (s : State) (x : CmdWord) : step (withNextWord s x) = present (.word x) s :=
  step_cons rfl

theorem withFetchWord_of_portWord {nbits w : Nat} {x : CmdWord} (h : portWord nbits w = some x)
    (s : State) : s.withFetchWord nbits w = withNextWord s x := by
  rw [State.withFetchWord, h]

/-- Settles O41, through the port's word that decodes to the instruction. -/
theorem placedWordRunsNext : Obligations.PlacedWordRunsNext := by
  intro s nbits w i h
  obtain ⟨x, hx, hd⟩ := decodeTableWord_eq_some_iff.mp h
  rw [withFetchWord_of_portWord hx, step_withNextWord, present_instr hd]

/-- Settles O40: the next event is presented, and what presenting it does is the decoder's case. -/
theorem stepRunsDecodedInstruction : Obligations.StepRunsDecodedInstruction :=
  fun _ _ => ⟨fun _ _ hin hd _ => (step_cons hin).trans (present_instr hd _),
    fun _ _ hin hd => (step_cons hin).trans (present_reserved hd _),
    fun hin => (step_cons hin).trans Happens.reset.present_eq⟩

end Sys2Proof.Machine
end

section
/-! ### The end of a run (R243) -/

namespace Sys2Proof.Machine

open Sys2Proof.Safety

variable {s : State}

theorem noEvent_idle (hp : s.phase = .idle) : noEvent s = .next s := by simp [noEvent, hp]

theorem noEvent_fault (hp : s.phase = .fault) : noEvent s = .fault .protocolViolation := by
  simp [noEvent, hp]

theorem noEvent_busy (hb : s.phase.busy = true) : noEvent s = .fault .operationNotEnded := by
  obtain hp | hp | hp := Phase.busy_iff.mp hb <;> simp [noEvent, hp]

theorem runEnd_idle (hp : s.phase = .idle) : runEnd s = .final (observe s) := by simp [runEnd, hp]

theorem runEnd_fault (hp : s.phase = .fault) : runEnd s = .fault := by simp [runEnd, hp]

theorem runEnd_busy (hb : s.phase.busy = true) : runEnd s = .stuck := by
  obtain hp | hp | hp := Phase.busy_iff.mp hb <;> simp [runEnd, hp]

/-- Settles O42, by the three kinds of phase a run can end in. -/
theorem endOfRun : Obligations.EndOfRun :=
  fun _ hin =>
    ⟨fun hp => ⟨(step_nil hin).trans (noEvent_idle hp), runEnd_idle hp⟩,
      fun hp => ⟨(step_nil hin).trans (noEvent_fault hp), runEnd_fault hp⟩,
      fun hb => ⟨(step_nil hin).trans (noEvent_busy hb), runEnd_busy hb⟩⟩

/-- With no event left, the only next state is the state itself. -/
theorem eq_of_noEvent {t : State} (h : noEvent s = .next t) : t = s := by
  cases hp : s.phase with
  | idle => cases (noEvent_idle hp).symm.trans h; rfl
  | fault => cases (noEvent_fault hp).symm.trans h
  | crcRun | frameRun | frameOvf => cases (noEvent_busy (s := s) (by rw [hp]; rfl)).symm.trans h

end Sys2Proof.Machine
end

section
/-! ### The invariant, one lemma per way the block can act (R21 to R30) -/

namespace Sys2Proof.Machine

open Sys2Proof.Safety

variable {s : State}

/-- In `IDLE` the invariant is about the buffer, the reports and the output stream only. -/
theorem inv_of_idle (hp : s.phase = .idle) (hbuf : s.buf.wf) (htx : ∀ f ∈ s.tx, IsFrame f)
    (herr : s.err ≠ .protocolViolation)
    (hlen : s.err = .invalidPayloadLength → (s.op = opFrameA ∨ s.op = opFrameB) ∧ s.cnt = 255)
    (hvalid : s.resultValid = true →
      s.err = .noError ∧ (s.op = opCrc16 ∨ s.op = opCrc32) ∧ s.cnt = 0)
    (hupper : s.resultValid = true → s.op = opCrc16 → s.result.extractLsb' 16 16 = 0) : Inv s where
  bufWf := hbuf
  crcRun := by simp [hp]
  crcUpper := by simp [hp]
  frame := by simp [hp]
  stored := by simp [hp]
  overflow := by simp [hp]
  busyClean := by simp [hp, Phase.busy]
  faultErr := by simp [hp, herr]
  lengthErr h := ⟨hp, hlen h⟩
  valid h := ⟨hp, hvalid h⟩
  resultUpper := hupper
  frames := htx

/-- While busy, with nothing reported, the invariant is about the operation in progress. -/
theorem inv_of_busy (hb : s.phase.busy = true) (hbuf : s.buf.wf) (htx : ∀ f ∈ s.tx, IsFrame f)
    (hclean : s.err = .noError ∧ s.resultValid = false)
    (hcrc : s.phase = .crcRun → (s.op = opCrc16 ∨ s.op = opCrc32) ∧ s.cnt = 0)
    (hupper : s.phase = .crcRun → s.op = opCrc16 → s.crc.extractLsb' 16 16 = 0)
    (hframe : s.phase = .frameRun ∨ s.phase = .frameOvf →
      (s.op = opFrameA ∨ s.op = opFrameB) ∧ s.crc = 0x0000FFFF)
    (hstored : s.phase = .frameRun ∨ s.phase = .frameOvf →
      ∀ i < s.cnt.toNat, (Memory.read s.buf i).isSome)
    (hovf : s.phase = .frameOvf → s.cnt = 255) : Inv s where
  bufWf := hbuf
  crcRun := hcrc
  crcUpper := hupper
  frame := hframe
  stored := hstored
  overflow := hovf
  busyClean _ := hclean
  faultErr := by
    have hp : s.phase ≠ .fault := by intro hp; simp [hp, Phase.busy] at hb
    simp [hp, hclean.1]
  lengthErr := by simp [hclean.1]
  valid := by simp [hclean.2]
  resultUpper := by simp [hclean.2]
  frames := htx

/-- Settles O44: `State.reset` is idle, with nothing stored, reported or emitted. -/
theorem resetStateMeetsInvariant : Obligations.ResetStateMeetsInvariant :=
  inv_of_idle rfl Memory.wf_nil nofun nofun nofun nofun nofun

/-- The events still to come are no part of the invariant. -/
theorem inv_setInput (h : Inv s) (es : List Event) : Inv { s with input := es } := { h with }

theorem inv_resetEvent (h : Inv s) : Inv (resetEvent s) :=
  inv_of_idle rfl Memory.wf_nil h.frames nofun nofun nofun nofun

/-- The entry of R208, from any phase. -/
theorem inv_violation (h : Inv s) : Inv (takeException .protocolViolation s) where
  bufWf := h.bufWf
  crcRun := nofun
  crcUpper := nofun
  frame := nofun
  stored := nofun
  overflow := nofun
  busyClean := nofun
  faultErr := by simp
  lengthErr := nofun
  valid := nofun
  resultUpper := nofun
  frames := h.frames

/-- An accepted START clears what was reported and loads the register of its unit. -/
theorem inv_started {i : Instr} (h : Inv s) (hi : i.isStart = true) : Inv (started i s) := by
  cases i with
  | startCrc16 =>
    exact inv_of_busy rfl h.bufWf h.frames ⟨rfl, rfl⟩ (fun _ => ⟨.inl rfl, rfl⟩)
      (fun _ _ => zext32_upper _) nofun nofun nofun
  | startCrc32 =>
    exact inv_of_busy rfl h.bufWf h.frames ⟨rfl, rfl⟩ (fun _ => ⟨.inr rfl, rfl⟩) nofun nofun nofun nofun
  | startFrameA =>
    exact inv_of_busy rfl h.bufWf h.frames ⟨rfl, rfl⟩ nofun nofun (fun _ => ⟨.inl rfl, rfl⟩)
      (fun _ _ => nofun) nofun
  | startFrameB =>
    exact inv_of_busy rfl h.bufWf h.frames ⟨rfl, rfl⟩ nofun nofun (fun _ => ⟨.inr rfl, rfl⟩)
      (fun _ _ => nofun) nofun
  | data | endOp => cases hi

/-- DATA in `CRC_RUN`: a 16-bit register stays zero-extended (R119). -/
theorem inv_dataCrc (h : Inv s) (hp : s.phase = .crcRun) (d : Byte) :
    Inv { s with crc := crcAfterData (params s.op) s.crc d } :=
  { h with
    crcUpper := fun _ hop => by
      change s.op = opCrc16 at hop
      rw [hop, params_opCrc16]
      exact zext32_upper _
    frame := by simp [hp] }

/-- After a store at `cnt`, every index up to `cnt` has been written (R62). -/
theorem Memory.isSome_read_write {m : Memory} {n : Nat} (h : ∀ i < n, (Memory.read m i).isSome) (d : Byte) :
    ∀ i < n + 1, (Memory.read (Memory.write m n d) i).isSome := by
  intro i hi
  rw [Memory.read_write]
  split
  · rfl
  · exact h i (by omega)

/-- DATA in `FRAME_RUN` below the full count. -/
theorem inv_dataStore (h : Inv s) (hp : s.phase = .frameRun) (hc : s.cnt.toNat < maxPayload) (d : Byte) :
    Inv (bufWrite { s with cnt := s.cnt + 1 } s.cnt.toNat d) := by
  have hb : s.phase.busy = true := by rw [hp]; rfl
  refine inv_of_busy hb (Memory.write_wf d h.bufWf hc) h.frames (h.busyClean hb) ?_ h.crcUpper h.frame
    (fun hf => ?_) ?_
  · simp [hp]
  · change ∀ i < (s.cnt + 1).toNat, _
    rw [cnt_succ_toNat s hc]
    exact Memory.isSome_read_write (h.stored hf) d
  · simp [hp]

/-- DATA in `FRAME_RUN` at the full count. -/
theorem inv_dataOverflow (h : Inv s) (hp : s.phase = .frameRun) (hc : ¬ s.cnt.toNat < maxPayload) :
    Inv { s with phase := .frameOvf } := by
  have hfull : s.cnt = 255 := by
    have : ¬ s.cnt.toNat < 255 := hc
    bv_omega
  exact inv_of_busy rfl h.bufWf h.frames (h.busyClean (by rw [hp]; rfl)) nofun nofun
    (fun _ => h.frame (.inl hp)) (fun _ => h.stored (.inl hp)) (fun _ => hfull)

/-- END in `CRC_RUN`: the delivered checksum of CRC-16 is zero-extended (R25, R35). -/
theorem inv_endCrc (h : Inv s) (hp : s.phase = .crcRun) : Inv (endCrc s) := by
  refine inv_of_idle rfl h.bufWf h.frames nofun nofun (fun _ => ⟨rfl, h.crcRun hp⟩) (fun _ hop => ?_)
  change s.op = opCrc16 at hop
  rw [endCrc_result, hop, params_opCrc16]
  exact zext32_upper _

/-- END in `FRAME_RUN` emits a whole frame (R52). -/
theorem inv_endFrame (h : Inv s) (hp : s.phase = .frameRun) : Inv (endFrame s) := by
  obtain ⟨-, hv⟩ := h.busyClean (by rw [hp]; rfl)
  refine inv_of_idle rfl h.bufWf (fun f hf => ?_) nofun nofun (by simp [hv]) (by simp [hv])
  rw [endFrame_tx, List.mem_append, List.mem_singleton] at hf
  obtain hf | rfl := hf
  · exact h.frames f hf
  · exact isFrame_frameOf h hp

/-- The entry of R207, at the full count of a frame operation. -/
theorem inv_lengthError (h : Inv s) (hp : s.phase = .frameOvf) :
    Inv (takeException .invalidPayloadLength s) := by
  obtain ⟨-, hv⟩ := h.busyClean (by rw [hp]; rfl)
  exact inv_of_idle rfl h.bufWf h.frames nofun (fun _ => ⟨(h.frame (.inr hp)).1, h.overflow hp⟩)
    (by simp [hv]) (by simp [hv])

/-- Every way the block can act keeps the invariant. -/
theorem Happens.inv {e : Event} {t : State} (hh : Happens s e t) (h : Inv s) : Inv t := by
  cases hh with
  | reset => exact inv_resetEvent h
  | ignored | dataDropped => exact h
  | reserved | startBusy | dataIdle | endIdle => exact inv_violation h
  | start hd hi hp => exact inv_started h hi
  | dataCrc hd hp => exact inv_dataCrc h hp _
  | dataStore hd hp hc => exact inv_dataStore h hp hc _
  | dataOverflow hd hp hc => exact inv_dataOverflow h hp hc
  | endCrc hd hp => exact inv_endCrc h hp
  | endFrame hd hp => exact inv_endFrame h hp
  | endOverflow hd hp => exact inv_lengthError h hp

/-- Settles O43: the end of a run changes nothing, and an event acts in one of the ways of `Happens`. -/
theorem stepKeepsInvariant : Obligations.StepKeepsInvariant := by
  intro s t h hstep
  cases hin : s.input with
  | nil => rw [eq_of_noEvent ((step_nil hin).symm.trans hstep)]; exact h
  | cons e es =>
    have hh := happens_of_present ((step_cons hin).symm.trans hstep)
    exact hh.inv (inv_setInput h es)

end Sys2Proof.Machine
end

section
/-! ### The stored bytes of a frame operation (R62, R176) -/

namespace Sys2Proof.Machine

open Sys2Proof.Safety

theorem Memory.read_writeAll_above {m : Memory} {i j : Nat} (p : Bytes) (h : i + p.length ≤ j) :
    (m.writeAll i p).read j = m.read j := by
  induction p generalizing m i with
  | nil => rfl
  | cons d p ih =>
    rw [List.length_cons] at h
    exact (ih (by omega)).trans (Memory.read_write_other (by omega))

/-- Settles O22: the DATA words leave the payload written from index 0 on, and nothing else. -/
theorem dataBytesAreStoredInOrder : Obligations.DataBytesAreStoredInOrder := by
  intro s p rest hp hc hfit hin
  have hfrom : s.cnt.toNat = 0 := by rw [hc]; rfl
  have hrun := run_data_frameRun hp (by rw [hfrom, Nat.zero_add]; exact hfit) hin
  have hcnt : (s.cnt + BitVec.ofNat 8 p.length).toNat = p.length := by
    rw [hc, BitVec.ofNat_eq_ofNat, BitVec.zero_add]
    exact Nat.mod_eq_of_lt (Nat.lt_succ_of_le hfit)
  rw [hfrom] at hrun
  refine ⟨_, hrun, hp, hcnt, storedPayload_of_writeAll rfl hcnt, fun i hi => ?_, rfl, rfl, rfl⟩
  have hread := Memory.read_writeAll_above (m := s.buf) (i := 0) (j := i) p (by omega)
  simp only [bufRead, hread]

end Sys2Proof.Machine
end

section
/-! ### The writers of each field (R31) -/

namespace Sys2Proof.Machine

open Sys2Proof.Safety

variable {e : Event} {s t : State}

theorem Happens.writer_of_op (h : Happens s e t) (hne : t.op ≠ s.op) :
    e = .reset ∨ IsStartWord e ∧ s.phase = .idle := by
  cases h with
  | reset => exact .inl rfl
  | start hd hi hp => exact .inr ⟨⟨_, hi, _, rfl, hd⟩, hp⟩
  | reserved | startBusy | dataIdle | endIdle | endOverflow => exact absurd (takeException_op ..) hne
  | ignored | dataCrc | dataStore | dataOverflow | dataDropped | endCrc | endFrame =>
    exact absurd rfl hne

theorem Happens.writer_of_crc (h : Happens s e t) (hne : t.crc ≠ s.crc) :
    e = .reset ∨ IsStartWord e ∧ s.phase = .idle ∨ IsDataWord e ∧ s.phase = .crcRun ∨
      IsWordOf e .endOp ∧ s.phase = .frameRun := by
  cases h with
  | reset => exact .inl rfl
  | start hd hi hp => exact .inr (.inl ⟨⟨_, hi, _, rfl, hd⟩, hp⟩)
  | dataCrc hd hp => exact .inr (.inr (.inl ⟨⟨_, _, rfl, hd⟩, hp⟩))
  | endFrame hd hp => exact .inr (.inr (.inr ⟨⟨_, rfl, hd⟩, hp⟩))
  | reserved | startBusy | dataIdle | endIdle | endOverflow => exact absurd (takeException_crc ..) hne
  | ignored | dataStore | dataOverflow | dataDropped | endCrc => exact absurd rfl hne

theorem Happens.writer_of_cnt (h : Happens s e t) (hne : t.cnt ≠ s.cnt) :
    e = .reset ∨ IsStartWord e ∧ s.phase = .idle ∨
      IsDataWord e ∧ s.phase = .frameRun ∧ s.cnt.toNat < maxPayload := by
  cases h with
  | reset => exact .inl rfl
  | start hd hi hp => exact .inr (.inl ⟨⟨_, hi, _, rfl, hd⟩, hp⟩)
  | dataStore hd hp hc => exact .inr (.inr ⟨⟨_, _, rfl, hd⟩, hp, hc⟩)
  | reserved | startBusy | dataIdle | endIdle | endOverflow => exact absurd (takeException_cnt ..) hne
  | ignored | dataCrc | dataOverflow | dataDropped | endCrc | endFrame => exact absurd rfl hne

theorem Happens.writer_of_result (h : Happens s e t) (hne : t.result ≠ s.result) :
    e = .reset ∨ IsWordOf e .endOp ∧ s.phase = .crcRun := by
  cases h with
  | reset => exact .inl rfl
  | endCrc hd hp => exact .inr ⟨⟨_, rfl, hd⟩, hp⟩
  | reserved | startBusy | dataIdle | endIdle | endOverflow =>
    exact absurd (takeException_result ..) hne
  | ignored | start | dataCrc | dataStore | dataOverflow | dataDropped | endFrame =>
    exact absurd rfl hne

/-- What is no writer of the buffer leaves it, by `Happens.buf_epoch_eq`. -/
theorem Happens.writer_of_buf (h : Happens s e t) (hne : t.buf ≠ s.buf) :
    e = .reset ∨ IsDataWord e ∧ s.phase = .frameRun ∧ s.cnt.toNat < maxPayload := by
  cases e with
  | reset => exact .inl rfl
  | word w =>
    by_cases hw : (∃ d, decode w = .instr (.data d)) ∧ s.phase = .frameRun ∧ s.cnt.toNat < maxPayload
    · obtain ⟨⟨d, hd⟩, hp, hc⟩ := hw
      exact .inr ⟨⟨d, w, rfl, hd⟩, hp, hc⟩
    · exact absurd (h.buf_epoch_eq hw).1 hne

/-- Settles O35, field by field. -/
theorem writersOfEachField : Obligations.WritersOfEachField := by
  intro e s t h
  have hh := happens_of_present h
  exact ⟨hh.writer_of_op, hh.writer_of_crc, hh.writer_of_cnt, hh.writer_of_result, hh.writer_of_buf,
    fun hne => not_imp_comm.mp hh.tx_eq hne, hh.input_eq⟩

end Sys2Proof.Machine
end

section
/-! ### Whole operations, and the phase they end in (R16, R236, R237) -/

namespace Sys2Proof

/-- An instruction is in protocol as a START while idle, or as DATA or END while busy; the block is then
busy unless it was END (R16, R236). -/
theorem wellPhrasedFrom_cons (busy : Bool) (i : Instr) (is : List Instr) :
    wellPhrasedFrom busy (i :: is) =
      ((i.isStart != busy) && wellPhrasedFrom (i != .endOp) is) := by
  cases i <;> cases busy <;> rfl

end Sys2Proof

namespace Sys2Proof.Machine

open Sys2Proof.Safety

theorem Phase.idle_iff {ph : Phase} (h : ph ≠ .fault) : ph = .idle ↔ ph.busy = false := by
  cases ph with
  | fault => exact absurd rfl h
  | idle | crcRun | frameRun | frameOvf => decide

/-- Outside `FAULT`, an instruction breaches the protocol exactly when it is a START and the block is busy,
or neither (R236). -/
theorem violates_iff_isStart_eq_busy {w : CmdWord} {i : Instr} {ph : Phase} (hd : decode w = .instr i)
    (h : ph ≠ .fault) : Violates (.word w) ph ↔ i.isStart = ph.busy := by
  rw [violates_instr_iff hd, Phase.idle_iff h]
  cases i.isStart <;> cases ph.busy <;> decide

theorem startPhase_busy (i : Instr) : (startPhase i).busy = true := by
  cases i <;> rfl

/-- An instruction that does not fault leaves the block busy, unless it is END (R172). -/
theorem Happens.busy_eq {w : CmdWord} {i : Instr} {s t : State} (h : Happens s (.word w) t)
    (hd : decode w = .instr i) (ht : t.phase ≠ .fault) : t.phase.busy = (i != .endOp) := by
  cases h with
  | ignored hp => exact absurd hp ht
  | reserved | startBusy | dataIdle | endIdle => exact absurd rfl ht
  | start hj hi hp =>
    cases hj.symm.trans hd
    rw [bne_iff_ne.mpr (by rintro rfl; cases hi)]
    exact startPhase_busy i
  | dataCrc hj hp | dataStore hj hp hc | dataDropped hj hp =>
    cases hj.symm.trans hd
    exact congrArg Phase.busy hp
  | dataOverflow hj hp hc => cases hj.symm.trans hd; rfl
  | endCrc hj hp | endFrame hj hp | endOverflow hj hp => cases hj.symm.trans hd; rfl

/-- In `FAULT` every instruction is ignored, so the run ends there (R210). -/
theorem run_wordsOf_of_fault {s : State} {is : List Instr} {rest : List Event} (hp : s.phase = .fault)
    (hin : s.input = wordsOf is ++ rest) : run is.length s = .next { s with input := rest } := by
  have hwords : wordsOf is = (is.map encode).map .word := List.map_map.symm
  have hrun := run_words_of_fault hp (hwords ▸ hin)
  rwa [List.length_map] at hrun

/-- From any phase but `FAULT`, the block is idle at the end exactly when the instructions complete the
operation in progress, if there is one, and are whole operations after it. -/
theorem run_wordsOf_idle_iff {s : State} {is : List Instr} {rest : List Event} (hs : s.phase ≠ .fault)
    (hin : s.input = wordsOf is ++ rest) :
    ∃ t, run is.length s = .next t ∧ (t.phase = .idle ↔ wellPhrasedFrom s.phase.busy is = true) := by
  induction is generalizing s with
  | nil => exact ⟨s, rfl, by simp [Phase.idle_iff hs, wellPhrasedFrom]⟩
  | cons i is ih =>
    obtain ⟨u, hstep, hh⟩ := step_happens hin
    have hviol := (hh.phase_fault_iff hs).trans (violates_iff_isStart_eq_busy (decode_encode i) hs)
    rw [List.length_cons, run_succ _ hstep, wellPhrasedFrom_cons]
    by_cases hu : u.phase = .fault
    · have hbreach : (i.isStart != s.phase.busy) = false := by simpa using hviol.mp hu
      exact ⟨_, run_wordsOf_of_fault hu hh.input_eq, by simp [hu, hbreach]⟩
    · have hfits : (i.isStart != s.phase.busy) = true := bne_iff_ne.mpr (mt hviol.mpr hu)
      rw [hfits, Bool.true_and, ← hh.busy_eq (decode_encode i) hu]
      exact ih hu hh.input_eq

/-- Settles O50: an idle block has no operation in progress. -/
theorem wellPhrasedExactlyWhenIdleAgain : Obligations.WellPhrasedExactlyWhenIdleAgain := by
  intro is s rest hp hin
  obtain ⟨t, hrun, ht⟩ := run_wordsOf_idle_iff (by simp [hp]) hin
  refine ⟨t, hrun, ?_⟩
  rw [ht, hp]; rfl

end Sys2Proof.Machine
end

section
/-! ### The worked examples (R120, R121, R155, R156) -/

namespace Sys2Proof.Machine

open Sys2Proof.Safety

/-- The checksums the worked examples give. -/
theorem computeCrc_worked_examples :
    computeCrc crc16 [0x31] = 0xC782 ∧ computeCrc crc32 [0x31] = 0x83DCEFB7 ∧
      computeCrc crc16 [0x01, 0x41] = 0x76DB := by
  decide +kernel

/-- The frame of the one byte 0x41, with its checksum written out. -/
theorem buildFrame_worked_example (v : Variant) :
    buildFrame [0x41] v = .frame (assembleFrame [0x01, 0x41] 0x76DB v) := by
  obtain ⟨-, -, hcrc⟩ := computeCrc_worked_examples
  rw [buildFrame_of_fits v (by decide), ← hcrc]; rfl

/-- A frame operation with the one byte 0x41, from reset (R155, R156). -/
theorem run_frame_worked_example (v : Variant) :
    ∃ t, run 3 { State.reset with input := wordsOf (operation (frameStart v) [0x41]) } = .next t ∧
      t.tx = [assembleFrame [0x01, 0x41] 0x76DB v] ∧ t.cnt = 1 ∧ t.err = .noError ∧
      t.phase = .idle ∧ t.crc = 0x000076DB ∧ statusReg t = startOp (frameStart v) ++ 0#6 := by
  obtain ⟨t, hrun, hp, hv, -, -, hop, hfits, -⟩ := frameOperationBuildsFrame
    { State.reset with input := wordsOf (operation (frameStart v) [0x41]) } v [0x41] [] rfl
    (by cases v <;> rfl)
  obtain ⟨herr, hcnt, ⟨f, hf, htx⟩, hcrc⟩ := hfits (by decide)
  cases hf.symm.trans (buildFrame_worked_example v)
  obtain ⟨-, -, hsum⟩ := computeCrc_worked_examples
  refine ⟨t, hrun, htx, BitVec.eq_of_toNat_eq hcnt, herr, hp, ?_, ?_⟩
  · exact hcrc.trans (congrArg (BitVec.setWidth 32) hsum)
  · have hcode : t.op = startOp (frameStart v) := hop.trans (frameStart_op v).symm
    rw [statusReg, hcode, hv, herr, hp]; rfl

/-- Settles O51: each example is a whole operation of one byte, and ends with the document's function of that
byte. -/
theorem workedExamplesFromReset : Obligations.WorkedExamplesFromReset := by
  obtain ⟨hcrc16, hcrc32, -⟩ := computeCrc_worked_examples
  refine ⟨⟨_, (crcOperationComputesChecksum _ [0x31] [] rfl).1 rfl, ?_, rfl, rfl, rfl, rfl⟩,
    ⟨_, (crcOperationComputesChecksum _ [0x31] [] rfl).2 rfl, hcrc32, rfl, rfl, rfl, rfl⟩,
    run_frame_worked_example .a, ?_⟩
  · exact congrArg (BitVec.setWidth 32) hcrc16
  · obtain ⟨t, hrun, htx, hcnt, herr, hp, -, hstatus⟩ := run_frame_worked_example .b
    exact ⟨t, hrun, htx, hcnt, herr, hp, hstatus⟩

end Sys2Proof.Machine
end
